-- ==== Sys2Proof/Word.lean ====
section
/-! DEFINITION. The words of FEU448 (spec/00_scope.md rules R7, R10, R11): the 32-bit host and
command word, the byte, the 64-bit accumulator slot, and the 16-lane vectors that hold the limbs of
a field element, the slots of the multiplier's accumulator and the registers of the FR file. -/

namespace Sys2Proof

/-- A 32-bit word: a command word, a host word, and (rule R10) a limb. -/
abbrev Word := BitVec 32

/-- One byte of IOBUF (rule R27). -/
abbrev Byte := BitVec 8

/-- One limb slot, `u32` (rules R7 `WBITS`, R10). -/
abbrev Limb := BitVec 32

/-- One slot of the multiplier's accumulator, `u64` (rules R7 `ACCW`, R10). -/
abbrev Slot := BitVec 64

/-- Sixteen like things, numbered 0 to 15. An index is a `Fin 16`, whose arithmetic is the spec's
index arithmetic modulo 16 (rule R10: index 0's predecessor is 15). -/
abbrev Vec16 (α : Type) := Vector α 16

/-- Lane `i`. -/
def Vec16.lane {α : Type} (x : Vec16 α) (i : Fin 16) : α := x[i]

/-- The vector with lane `i` replaced by `v`. -/
def Vec16.setLane {α : Type} (x : Vec16 α) (i : Fin 16) (v : α) : Vec16 α :=
  Vector.set x i.val v i.isLt

/-- The vector whose lane `i` is `f i`. -/
def Vec16.build {α : Type} (f : Fin 16 → α) : Vec16 α := Vector.ofFn f

/-- The sixteen indices in rising order: the range of every `for i in 0..15` of the spec. -/
def lanes : List (Fin 16) := List.finRange 16

/-- A field element: 16 limbs, limb `k` of weight `2^(28k)` (rules R11, R20). -/
abbrev FE := Vec16 Limb

/-- The multiplier's accumulator, 16 slots of 64 bits (rule R35). -/
abbrev Accum := Vec16 Slot

/-- The 56 bytes of an encoding (rule R230). -/
abbrev Bytes := Vector Byte 56

end Sys2Proof
end

