-- ==== Sys2Proof/Config.lean ====
section
/-! DEFINITION. What an implementation fixes: the fixed parameters (spec/00_scope.md rule R7), the
open parameters (rule R8), and the one free value the spec leaves to a draw (spec/20_memory.md rule
R76). An open parameter is opaque: nothing in Lean can evaluate it. -/

namespace Sys2Proof.Config

/-- The modulus `P` (rule R7). It is irreducible so that no elaboration unfolds a power of two or a
power with such an exponent; `P_eq` of Laws/Value.lean gives its value. -/
@[irreducible] def P : Nat := 2 ^ 448 - 2 ^ 224 - 1

/-- `LMASK`, the payload mask of a limb (rule R7). -/
abbrev lmask : Limb := 0x0FFFFFFF#32

/-- `LMASK` widened to an accumulator slot (rule R152). -/
abbrev lmask64 : Slot := 0x0FFFFFFF#64

/-- `NBYTES`, the length of an encoding and of IOBUF (rules R7, R27). -/
abbrev nbytes : Nat := 56

/-- The size in bytes of the register window (rules R7, R61). -/
abbrev windowBytes : Nat := 0x80

/-- The value of the hardwired `ID` register (spec/10_state.md rule R33). -/
abbrev idValue : Word := 0x04480100#32

/-- The number of 0x80-byte blocks below the window: the platform's choice (rule R8, decision D6). -/
opaque feuBlock : Nat

/-- `FEU_BASE`, the bus address of the register window, aligned to 0x80 and otherwise open
(rules R8, R70). -/
def feuBase : Nat := windowBytes * feuBlock

/-- The cycles of a command beyond the first, by opcode: an implementation's choice (rule R8). -/
opaque extraCycles : BitVec 8 → Nat

/-- `LAT(op)`, the cycles from acceptance to completion: finite, at least 1, a function of the
opcode alone (rules R8, R317, R318). The model is timeless; nothing else reads it. -/
def lat (op : BitVec 8) : Nat := extraCycles op + 1

/-- FREE VALUE. What a host read of IOBUF returns while a codec command is in flight: a draw under
no law (spec/20_memory.md rule R76). The argument is the number of the draw. -/
opaque freeWord : Nat → Word

end Sys2Proof.Config
end

