-- ==== Sys2Proof/Syntax.lean ====
section
/-! DEFINITION. The commands of FEU448 (spec/30_encoding.md rule R98), one constructor per row of
spec/opcode_table.json, with the operand forms of rules R91 to R96, and the error codes of
spec/60_exceptions.md rule R261 by which a word is rejected. -/

namespace Sys2Proof

/-- A register field: value `n` names `FR[n]`; all 16 values are legal (rule R93). -/
abbrev Reg := Fin 16

/-- The constants FE.LDC can select (rules R25, R96). Selector 3 names no constant and has no
constructor. -/
inductive RomConst where
  /-- K = 0 -/
  | zero
  /-- K = 1 -/
  | one
  /-- K = 2 -/
  | prime
deriving DecidableEq, Repr

/-- A command (rule R98). `mulw`'s multiplier is unsigned: a negative one has no encoding and no
constructor (rules R94, R284). `cswap`'s Bool is the swap bit S (rule R95). -/
inductive Instr where
  /-- FE.COPY (rule R125) -/
  | copy (rd rs1 : Reg)
  /-- FE.REDUCE (rule R127) -/
  | reduce (rd rs1 : Reg)
  /-- FE.CANON (rule R128) -/
  | canon (rd rs1 : Reg)
  /-- FE.LDC (rule R126) -/
  | ldc (rd : Reg) (k : RomConst)
  /-- FE.ADD (rule R150) -/
  | add (rd rs1 rs2 : Reg)
  /-- FE.SUB (rule R151) -/
  | sub (rd rs1 rs2 : Reg)
  /-- FE.MUL (rule R154) -/
  | mul (rd rs1 rs2 : Reg)
  /-- FE.SQR (rule R155) -/
  | sqr (rd rs1 : Reg)
  /-- FE.CSWAP (rule R156) -/
  | cswap (ra rb : Reg) (swap : Bool)
  /-- FE.MULW (rule R157) -/
  | mulw (rd rs1 : Reg) (w : BitVec 16)
  /-- FE.ISQRT (rule R203) -/
  | isqrt (rd rs1 : Reg)
  /-- FE.INV (rule R205) -/
  | inv (rd rs1 : Reg)
  /-- FE.FROMBYTES (rule R234) -/
  | frombytes (rd : Reg)
  /-- FE.TOBYTES (rule R235) -/
  | tobytes (rs1 : Reg)
deriving DecidableEq, Repr

/-- The error codes STATUS.ERRCODE can hold (rule R261); 5 to 15 are never produced and have no
constructor (spec/93_implementation_defined.md U16). -/
inductive ErrCode where
  /-- 0: no error -/
  | none
  /-- 1 (rule R262) -/
  | illegalOpcode
  /-- 2 (rule R263) -/
  | reservedField
  /-- 3 (rule R264) -/
  | illegalOperand
  /-- 4 (rule R265) -/
  | busyWrite
deriving DecidableEq, Repr

/-- The seven command formats (spec/30_encoding.md rule R92). -/
inductive Format where
  | rr | rrr | ri | rk | sw | d | s
deriving DecidableEq, Repr

end Sys2Proof
end

