-- ==== Sys2Proof/Machine/State.lean ====
section
/-! DEFINITION. The state of FEU448 as plain data (spec/10_state.md), the moves of its two agents
(spec/20_memory.md rule R72) and of its reset pin (spec/70_reset_and_hazards.md rule R300), the
reasons a step can stop, and the state after reset (rule R301). -/

namespace Sys2Proof.Machine

/-- IOBUF as (byte index, byte) pairs, indices strictly rising, no byte equal to `0x00`, which is what
an unlisted index reads as: the reset contents of rule R27. -/
abbrev Memory := List Host.Cell

/-- STATUS (rule R29); its reserved bits are no storage (rule R67). -/
structure Status where
  /-- bit 0 -/
  busy : Bool
  /-- bit 1 -/
  done : Bool
  /-- bit 2 -/
  err : Bool
  /-- bits 7:4 -/
  errcode : ErrCode
  /-- bit 8 (rule R30) -/
  noncanon : Bool
deriving DecidableEq, Repr

/-- CTRL (rule R31); SRST is a write-only strobe and no storage. -/
structure Ctrl where
  /-- bit 0 -/
  ieDone : Bool
  /-- bit 1 -/
  ieErr : Bool
deriving DecidableEq, Repr

/-- The widths a bus access can have; only `w32` is answered (rule R64). -/
inductive AccessWidth where
  | w8 | w16 | w32 | w64
deriving DecidableEq, Repr

/-- What an access does. -/
inductive AccessKind where
  | read
  | write (data : Word)
deriving DecidableEq, Repr

/-- One access of the host, at a bus address in bytes (rules R60, R72). -/
structure Access where
  kind : AccessKind
  width : AccessWidth
  addr : Nat
deriving DecidableEq, Repr

/-- One move: a host access, the unit's step *complete*, or an edge of `rst_n` (rules R72, R300). -/
inductive Move where
  | host (a : Access)
  | complete
  | rstLow
  | rstHigh
deriving DecidableEq, Repr

/-- What the slave port last answered an access. The ERROR response is no value of this type: it
ends the run as `Fault.busError` (rule R270). -/
inductive Response where
  /-- OKAY to a write -/
  | okay
  /-- OKAY to a read, with its data -/
  | okayData (v : Word)
deriving DecidableEq, Repr

/-- The machine. From `fr` to `pend` it is what rule R301 lists; `rstN` is the level of the reset
pin (rule R300). The last four fields are the model's own: what the port answered, the moves still
to come, the number of draws made, and the log of command errors. -/
structure State where
  /-- `FR[0]` to `FR[15]` (rule R20) -/
  fr : Vec16 FE
  /-- IOBUF (rule R27) -/
  iobuf : Memory
  /-- CMD, the last sampled word (rule R28) -/
  cmd : Word
  /-- STATUS (rule R29) -/
  status : Status
  /-- CTRL (rule R31) -/
  ctrl : Ctrl
  /-- PEND (rule R34) -/
  pend : Option Word
  /-- the level of `rst_n`; `true` is high, not in reset (rule R300) -/
  rstN : Bool
  /-- the answer to the host's last access; `none` before the first, and after one made in reset -/
  response : Option Response
  /-- the moves still to come, the next one first: any interleaving of the agents (rule R72) -/
  agenda : List Move
  /-- how many free words have been drawn (rule R76) -/
  draws : Nat
  /-- every command error raised, the latest first; no write and no reset clears it
  (spec/93_implementation_defined.md) -/
  errorLog : List ErrCode
deriving DecidableEq, Repr

/-- The fault reasons. -/
inductive Fault where
  /-- Raised by a host access that is not 32 bits wide, misaligned, unmapped or outside the window:
  the bus's ERROR response (rules R66, R270). SAFE: the machine stops where the host would go on
  with an unchanged unit. -/
  | busError
deriving DecidableEq, Repr

/-- The refusal reasons. -/
inductive Refusal where
  /-- Raised by no meaning: it stands for an arm of `exec` that has none. SAFE. -/
  | notModelled (mnemonic : String)
  /-- Raised by the unit's step when PEND holds a word that is no command. Acceptance never puts one
  there (rule R74), so no state a run reaches raises it. SAFE. -/
  | pendNotACommand
deriving DecidableEq, Repr

/-- All limbs `0x00000000` (rules R24, R25). -/
def FE.allZero : FE := Vector.replicate 16 0#32

/-- The machine right after reset (rule R301), `rst_n` released and no move to come. Every value
down to `pend` is the spec's. -/
def State.reset : State where
  fr := Vector.replicate 16 FE.allZero
  iobuf := []
  cmd := 0x00000000#32
  status := ⟨false, false, false, .none, false⟩
  ctrl := ⟨false, false⟩
  pend := none
  rstN := true
  response := none
  agenda := []
  draws := 0
  errorLog := []

end Sys2Proof.Machine
end

