-- ==== Sys2Proof/Machine/Flags.lean ====
section
/-! DEFINITION. Every flag computation of FEU448: the words STATUS and CTRL read as, what a host
write of each does to its bits (spec/10_state.md rules R29, R31), the setting of an error
(spec/60_exceptions.md rule R260), the life cycle's bits (spec/20_memory.md rule R74), the range flag
(spec/43_codec.md rule R232) and the interrupt line (rule R273). There are no arithmetic flags (rule
R36). -/

namespace Sys2Proof.Machine

/-- The number of an error code (rule R261). -/
def errBits : ErrCode → BitVec 4
  | .none => 0#4
  | .illegalOpcode => 1#4
  | .reservedField => 2#4
  | .illegalOperand => 3#4
  | .busyWrite => 4#4

/-- The word STATUS reads as: reserved bits 3 and 31:9 are 0 (rules R29, R67). -/
def statusWord (st : Status) : Word :=
  0#23 ++ BitVec.ofBool st.noncanon ++ errBits st.errcode ++ 0#1 ++ BitVec.ofBool st.err
    ++ BitVec.ofBool st.done ++ BitVec.ofBool st.busy

/-- A host write of STATUS: bit 1 clears DONE, bit 2 clears ERR and ERRCODE, nothing else changes
(rule R29). -/
def statusW1C (v : Word) (st : Status) : Status :=
  { st with
    done := st.done && !v[1]
    err := st.err && !v[2]
    errcode := if v[2] then .none else st.errcode }

/-- An error: ERR is set, and ERRCODE takes the code unless an earlier error holds it (rules R260,
R268). -/
def statusError (code : ErrCode) (st : Status) : Status :=
  { st with err := true, errcode := if st.err then st.errcode else code }

/-- A word is sampled: DONE is cleared (rule R74). -/
def statusSampled (st : Status) : Status := { st with done := false }

/-- A command is accepted: BUSY is set (rule R74). -/
def statusAccepted (st : Status) : Status := { st with busy := true }

/-- A command completes: BUSY is cleared and DONE is set (rules R74, R120). -/
def statusCompleted (st : Status) : Status := { st with busy := false, done := true }

/-- The result of FE.FROMBYTES' range check is kept (rule R30). -/
def statusNoncanon (b : Bool) (st : Status) : Status := { st with noncanon := b }

/-- The word CTRL reads as: bits 30:2 are reserved and SRST reads 0 (rule R31). -/
def ctrlWord (c : Ctrl) : Word := 0#30 ++ BitVec.ofBool c.ieErr ++ BitVec.ofBool c.ieDone

/-- The enables a host write without SRST leaves in CTRL (rule R31). -/
def ctrlWritten (v : Word) : Ctrl := ⟨v[0], v[1]⟩

/-- The integer comparison `N ≥ P` (rule R232). -/
def noncanonFlag (n : Nat) : Bool := decide (Config.P ≤ n)

/-- The interrupt line, a function of the current state and no storage (rule R273). -/
def irq (s : State) : Bool := (s.status.done && s.ctrl.ieDone) || (s.status.err && s.ctrl.ieErr)

end Sys2Proof.Machine
end

