-- ==== Sys2Proof/Machine/Operands.lean ====
section
/-! DEFINITION. The operand forms of the commands: integers and field elements (spec/00_scope.md rule
R11), the constant ROM (spec/10_state.md rules R25, R26), the small multiplier and the swap mask
(spec/30_encoding.md rules R94, R95), and the integer of 56 bytes (spec/43_codec.md rule R230). -/

namespace Sys2Proof.Machine

/-- `val(x) = Σ x.limb[i] · 2^(28i)`, exact (rule R11). -/
def val (x : FE) : Nat := (lanes.map fun i => (x.lane i).toNat * 2 ^ (28 * i.val)).sum

/-- `fe(n)`: limb `k` is bits `28k + 27 … 28k` of `n` (rule R11). -/
def fe (n : Nat) : FE :=
  Vec16.build fun k => BitVec.ofNat 32 (n >>> (28 * k.val)) &&& Config.lmask

/-- ZERO's limbs (rule R25). -/
def zeroLimbs : FE := Vec16.build fun _ => 0#32

/-- ONE's limbs (rule R25). -/
def oneLimbs : FE := Vec16.build fun k => if k = 0 then 1#32 else 0#32

/-- PRIME's limbs: `2^28 − 1`, less 1 in limb 8 (rules R25, R26). -/
def primeLimbs : FE := Vec16.build fun k => if k = 8 then 0x0FFFFFFE#32 else 0x0FFFFFFF#32

/-- `ROM(k)` (rules R12, R25). -/
def rom : RomConst → FE
  | .zero => zeroLimbs
  | .one => oneLimbs
  | .prime => primeLimbs

/-- FE.MULW's second operand: the multiplier zero-extended into limb 0, every other limb 0
(rules R94, R157). -/
def smallOperand (w : BitVec 16) : FE :=
  Vec16.build fun k => if k = 0 then w.setWidth 32 else 0#32

/-- FE.CSWAP's mask: all ones for S = 1, all zeros for S = 0 (rule R95). -/
def swapMask (swap : Bool) : Limb := if swap then 0xFFFFFFFF#32 else 0x00000000#32

/-- `N(B) = Σ B[i] · 2^(8i)`, little-endian (rules R62, R230). -/
def bytesVal (b : Bytes) : Nat :=
  ((List.finRange 56).map fun i : Fin 56 => (b[i]).toNat * 2 ^ (8 * i.val)).sum

/-- The 56 bytes of `n`, byte `i` being bits `8i + 7 … 8i` (rules R230, R233). -/
def bytesOf (n : Nat) : Bytes :=
  Vector.ofFn fun i : Fin 56 => BitVec.ofNat 8 ((n >>> (8 * i.val)) &&& 0xFF)

end Sys2Proof.Machine
end

