-- ==== Sys2Proof/Machine/Ops.lean ====
section
/-! DEFINITION. The named operations over memory and registers: one byte of IOBUF, the host's word of
it and the whole of it (spec/10_state.md rule R27, spec/20_memory.md rule R63), the FR file (rule
R20), raising a command error (spec/60_exceptions.md rule R260: FEU448's only exception, which enters
no handler and so has no return, rule R269), a completion (spec/20_memory.md rule R74) and the reset
(spec/70_reset_and_hazards.md rule R301). -/

namespace Sys2Proof.Machine

/-! ## IOBUF, byte by byte -/

/-- What an unlisted byte of IOBUF reads as: its reset contents (rule R27). -/
abbrev unlistedByte : Byte := 0x00#8

/-- Byte `a`. -/
def Memory.read : Memory → Nat → Byte
  | [], _ => unlistedByte
  | (b, w) :: m, a => if a = b then w else Memory.read m a

/-- The memory with byte `a` set to `v`, in canonical form if `m` is. -/
def Memory.write : Memory → Nat → Byte → Memory
  | [], a, v => if v = unlistedByte then [] else [(a, v)]
  | (b, w) :: m, a, v =>
    if a < b then (if v = unlistedByte then (b, w) :: m else (a, v) :: (b, w) :: m)
    else if a = b then (if v = unlistedByte then m else (a, v) :: m)
    else (b, w) :: Memory.write m a v

/-- The canonical form from index `lo` on: rising, within the 56 bytes, nothing listed that reads as
an unlisted byte. -/
def Memory.wfFrom (lo : Nat) : Memory → Bool
  | [] => true
  | (a, v) :: m => decide (lo ≤ a) && decide (a < Config.nbytes) && (v != unlistedByte) && Memory.wfFrom (a + 1) m

/-- The canonical form. -/
def Memory.wf (m : Memory) : Bool := Memory.wfFrom 0 m

/-! ## IOBUF, by words and whole -/

/-- The byte index at which host word `j` starts (rule R63). -/
def wordBase (j : Fin 14) : Nat := 4 * j.val

/-- Host word `j`, little-endian (rule R63). -/
def readWord (m : Memory) (j : Fin 14) : Word :=
  m.read (wordBase j + 3) ++ m.read (wordBase j + 2) ++ m.read (wordBase j + 1) ++ m.read (wordBase j)

/-- Host word `j` set to `v` (rule R63). -/
def writeWord (m : Memory) (j : Fin 14) (v : Word) : Memory :=
  (((m.write (wordBase j) (v.extractLsb' 0 8)).write (wordBase j + 1) (v.extractLsb' 8 8)).write
    (wordBase j + 2) (v.extractLsb' 16 8)).write (wordBase j + 3) (v.extractLsb' 24 8)

/-- All 56 bytes. -/
def readBytes (m : Memory) : Bytes := Vector.ofFn fun i : Fin 56 => m.read i.val

/-- All 56 bytes set. -/
def writeBytes (m : Memory) (b : Bytes) : Memory :=
  (List.finRange 56).foldl (fun m (i : Fin 56) => m.write i.val b[i]) m

/-! ## The FR file -/

/-- `FR[r]` (rule R12). -/
def State.readFr (s : State) (r : Reg) : FE := s.fr.lane r

/-- `FR[r] <- x` (rule R12). No register is hardwired (rule R21). -/
def State.writeFr (s : State) (r : Reg) (x : FE) : State := { s with fr := s.fr.setLane r x }

/-! ## Status, errors, completion, reset -/

/-- STATUS changed by one of the flag computations. -/
def State.mapStatus (s : State) (f : Status → Status) : State := { s with status := f s.status }

/-- IOBUF replaced. -/
def State.setIobuf (s : State) (m : Memory) : State := { s with iobuf := m }

/-- `PEND <- empty` (rule R74). -/
def State.emptyPend (s : State) : State := { s with pend := none }

/-- The moves still to come replaced. -/
def State.setAgenda (s : State) (ms : List Move) : State := { s with agenda := ms }

/-- `raise CmdError(code)`: the error is recorded and nothing else changes (rule R260). The log is
the model's own record. -/
def raiseCmdError (code : ErrCode) (s : State) : State :=
  { s.mapStatus (statusError code) with errorLog := code :: s.errorLog }

/-- The end of a completion step: PEND is emptied, BUSY cleared, DONE set (rule R74). -/
def finish (s : State) : Host.Outcome State Fault Refusal :=
  .next (s.mapStatus statusCompleted).emptyPend

/-- A command whose whole effect is one register written with `x`. -/
def finishWrite (rd : Reg) (x : FE) (s : State) : Host.Outcome State Fault Refusal :=
  finish (s.writeFr rd x)

/-- Every piece of the machine's state at its value after reset (rule R301). The reset pin's level,
and the model's own fields, are no state of the unit and stay. -/
def applyReset (s : State) : State :=
  { State.reset with
    rstN := s.rstN
    response := s.response
    agenda := s.agenda
    draws := s.draws
    errorLog := s.errorLog }

end Sys2Proof.Machine
end

