-- ==== Sys2Proof/Machine/Representation.lean ====
section
/-! DEFINITION. The source's component 1 (spec/40_representation.md): the datapath functions
`reduce_fn` and `canon_fn`, and the commands FE.COPY, FE.REDUCE, FE.CANON and FE.LDC. -/

namespace Sys2Proof.Machine

/-- `y.limb[8] <- y.limb[8] +32 (y.limb[15] >> 28)`: the fold-back at HALF (rule R121). -/
def foldBack (y : FE) : FE := y.setLane 8 (y.lane 8 + (y.lane 15 >>> 28))

/-- One step of the circular carry chain: limb `i` takes the carry of its predecessor, which is
masked (rule R121). -/
def carryStep (y : FE) (i : Fin 16) : FE :=
  let y' := y.setLane i (y.lane i + (y.lane (i - 1) >>> 28))
  y'.setLane (i - 1) (y'.lane (i - 1) &&& Config.lmask)

/-- `reduce_fn` (rule R121). UNVERIFIED against the source: the chain's start at limb 0 is the spec's
decision D27. -/
def reduceFn (x : FE) : FE := lanes.foldl carryStep (foldBack x)

/-- One step of a signed 28-bit pass: the carry `c` takes in `d`, limb `i` becomes its low 28 bits,
and what is left is shifted arithmetically (rule R123). -/
def signedStep (d : FE → Fin 16 → Int) (ac : FE × Int) (i : Fin 16) : FE × Int :=
  let c := ac.2 + d ac.1 i
  (ac.1.setLane i (BitVec.ofInt 32 (c % 2 ^ 28)), c >>> (28 : Nat))

/-- The first loop of `canon_fn`: subtract PRIME with signed borrow (rule R123). -/
def subtractPrime (a : FE) : FE × Int :=
  lanes.foldl (signedStep fun a i => (a.lane i).toNat - (primeLimbs.lane i).toNat) (a, 0)

/-- The second loop of `canon_fn`: add back PRIME under the mask, always; the final carry is
discarded (rule R123). -/
def addBackPrime (a : FE) (mask : Limb) : FE :=
  (lanes.foldl (signedStep fun a i => (a.lane i).toNat + (primeLimbs.lane i &&& mask).toNat) (a, 0)).1

/-- `canon_fn`; the mask is the low 32 bits of the borrow (rule R123). -/
def canonFn (x : FE) : FE :=
  let ac := subtractPrime (reduceFn x)
  addBackPrime ac.1 (BitVec.ofInt 32 ac.2)

/-- FE.COPY: all 16 limbs unchanged (rule R125). -/
def execCopy (rd rs1 : Reg) (s : State) : Host.Outcome State Fault Refusal :=
  finishWrite rd (s.readFr rs1) s

/-- FE.REDUCE (rule R127). -/
def execReduce (rd rs1 : Reg) (s : State) : Host.Outcome State Fault Refusal :=
  finishWrite rd (reduceFn (s.readFr rs1)) s

/-- FE.CANON (rule R128). -/
def execCanon (rd rs1 : Reg) (s : State) : Host.Outcome State Fault Refusal :=
  finishWrite rd (canonFn (s.readFr rs1)) s

/-- FE.LDC (rule R126). -/
def execLdc (rd : Reg) (k : RomConst) (s : State) : Host.Outcome State Fault Refusal :=
  finishWrite rd (rom k) s

end Sys2Proof.Machine
end

