-- ==== Sys2Proof/Machine/Arithmetic.lean ====
section
/-! DEFINITION. The source's component 2 (spec/41_arithmetic.md): the multiply core `mul_fn`, and the
commands FE.ADD, FE.SUB, FE.MUL, FE.SQR, FE.CSWAP and FE.MULW. -/

namespace Sys2Proof.Machine

/-- `s.limb[i] <- A.limb[i] +32 B.limb[i]` (rule R150). -/
def addLimbs (a b : FE) : FE := Vec16.build fun i => a.lane i + b.lane i

/-- `s.limb[i] <- (A.limb[i] -32 B.limb[i]) +32 (2 × PRIME.limb[i])` (rule R151). -/
def subLimbs (a b : FE) : FE :=
  Vec16.build fun i => a.lane i - b.lane i + 2#32 * primeLimbs.lane i

/-- One product of row `i`: `accum[(i+j) mod 16] += b[i] · aa[j]`, all 64 bits wide (rule R152). -/
def mulTerm (bi : Limb) (aa : FE) (i : Fin 16) (acc : Accum) (j : Fin 16) : Accum :=
  acc.setLane (i + j) (acc.lane (i + j) + bi.setWidth 64 * (aa.lane j).setWidth 64)

/-- The fold of the operand after row `i`: `aa[(15-i) ^ 8] +32= aa[15-i]` (rule R152). -/
def mulFold (aa : FE) (i : Fin 16) : FE :=
  aa.setLane ((15 - i) ^^^ 8) (aa.lane ((15 - i) ^^^ 8) + aa.lane (15 - i))

/-- Row `i`: the 16 products with the operand as it stands, then its fold (rule R152). -/
def mulRow (b : FE) (st : FE × Accum) (i : Fin 16) : FE × Accum :=
  (mulFold st.1 i, lanes.foldl (mulTerm (b.lane i) st.1 i) st.2)

/-- The double loop: the accumulator after all 16 rows (rule R152). -/
def mulRows (a b : FE) : Accum :=
  (lanes.foldl (mulRow b) (a, Vec16.build fun _ => 0#64)).2

/-- Slot `i` takes the carry of its predecessor, which is masked (rule R152). -/
def slotCarry (acc : Accum) (i : Fin 16) : Accum :=
  let acc' := acc.setLane i (acc.lane i + (acc.lane (i - 1) >>> 28))
  acc'.setLane (i - 1) (acc'.lane (i - 1) &&& Config.lmask64)

/-- `accum[8] <- accum[8] +64 (accum[15] >> 28)`: the fold-back at HALF (rule R152). -/
def slotFoldBack (acc : Accum) : Accum := acc.setLane 8 (acc.lane 8 + (acc.lane 15 >>> 28))

/-- The clean-up: slot 14 into slot 15, the fold-back, the circular chain (rule R152). UNVERIFIED
against the source: its first step is the spec's decision D28. -/
def mulCleanup (acc : Accum) : Accum := lanes.foldl slotCarry (slotFoldBack (slotCarry acc 15))

/-- `mul_fn` (rule R152). -/
def mulFn (a b : FE) : FE :=
  let acc := mulCleanup (mulRows a b)
  Vec16.build fun j => (acc.lane j).setWidth 32

/-- FE.ADD (rule R150). -/
def execAdd (rd rs1 rs2 : Reg) (s : State) : Host.Outcome State Fault Refusal :=
  finishWrite rd (reduceFn (addLimbs (s.readFr rs1) (s.readFr rs2))) s

/-- FE.SUB (rule R151). -/
def execSub (rd rs1 rs2 : Reg) (s : State) : Host.Outcome State Fault Refusal :=
  finishWrite rd (reduceFn (subLimbs (s.readFr rs1) (s.readFr rs2))) s

/-- FE.MUL (rule R154). -/
def execMul (rd rs1 rs2 : Reg) (s : State) : Host.Outcome State Fault Refusal :=
  finishWrite rd (mulFn (s.readFr rs1) (s.readFr rs2)) s

/-- FE.SQR (rule R155). -/
def execSqr (rd rs1 : Reg) (s : State) : Host.Outcome State Fault Refusal :=
  finishWrite rd (mulFn (s.readFr rs1) (s.readFr rs1)) s

/-- `t` of FE.CSWAP for every limb: `(A.limb[i] ^ B.limb[i]) & m` (rule R156). -/
def swapDiff (m : Limb) (a b : FE) : FE := Vec16.build fun i => (a.lane i ^^^ b.lane i) &&& m

/-- Every limb exclusive-or'ed with that of `t` (rule R156). -/
def xorLimbs (a t : FE) : FE := Vec16.build fun i => a.lane i ^^^ t.lane i

/-- FE.CSWAP: both registers are read, then both are written, `FR[rb]` last (rule R156). -/
def execCswap (ra rb : Reg) (swap : Bool) (s : State) : Host.Outcome State Fault Refusal :=
  let a := s.readFr ra
  let b := s.readFr rb
  let t := swapDiff (swapMask swap) a b
  finish ((s.writeFr ra (xorLimbs a t)).writeFr rb (xorLimbs b t))

/-- FE.MULW (rule R157). -/
def execMulw (rd rs1 : Reg) (w : BitVec 16) (s : State) : Host.Outcome State Fault Refusal :=
  finishWrite rd (mulFn (s.readFr rs1) (smallOperand w)) s

end Sys2Proof.Machine
end

