-- ==== Sys2Proof/Machine/Codec.lean ====
section
/-! DEFINITION. The source's component 4 (spec/43_codec.md): `unpack_fn`, `noncanon_fn`, `pack_fn`,
and the commands FE.FROMBYTES and FE.TOBYTES. -/

namespace Sys2Proof.Machine

/-- `unpack_fn`: limb `k` is bits `28k + 27 … 28k` of `N(B)`; nothing is reduced (rule R231). -/
def unpackFn (b : Bytes) : FE := fe (bytesVal b)

/-- `noncanon_fn` (rule R232). -/
def noncanonFn (b : Bytes) : Bool := noncanonFlag (bytesVal b)

/-- `pack_fn`: the bytes of the canonical representative (rule R233). -/
def packFn (x : FE) : Bytes := bytesOf (val (canonFn x))

/-- FE.FROMBYTES: all of IOBUF is read before the register and NONCANON are written (rule R234). -/
def execFrombytes (rd : Reg) (s : State) : Host.Outcome State Fault Refusal :=
  let b := readBytes s.iobuf
  finish ((s.writeFr rd (unpackFn b)).mapStatus (statusNoncanon (noncanonFn b)))

/-- FE.TOBYTES: IOBUF takes the canonical encoding; the register is left as it is (rule R235). -/
def execTobytes (rs1 : Reg) (s : State) : Host.Outcome State Fault Refusal :=
  finish (s.setIobuf (writeBytes s.iobuf (packFn (s.readFr rs1))))

end Sys2Proof.Machine
end

