-- ==== Sys2Proof/Machine/Chain.lean ====
section
/-! DEFINITION. The fixed addition chain of the inversion engine (spec/42_inversion.md rules R200, R201,
R204), over any multiplication: the engine runs it over `mul_fn`, and a claim may run it over any
other. The sequence of multiplications is the same for every input (rule R201). -/

namespace Sys2Proof.Machine

/-- The chain registers a stage can write (rule R200, column s). -/
inductive ChainDst where
  | a | b
deriving DecidableEq, Repr

/-- The chain registers a stage can multiply in (rule R200, column m). -/
inductive ChainSrc where
  | x | a | b
deriving DecidableEq, Repr

/-- One row of `CHAIN`: the register written, the register multiplied in, the squarings. -/
structure ChainRow where
  dst : ChainDst
  src : ChainSrc
  squarings : Nat
deriving DecidableEq, Repr

/-- The chain registers `a`, `b` and `c` (rules R35, R201); the input `x` is only read. -/
structure ChainRegs (α : Type) where
  a : α
  b : α
  c : α

/-- `CHAIN`, stages 1 to 11 (rule R200). UNVERIFIED against the source: the registers are the spec's
decision D29, the repeat counts the source's. -/
def chain : List ChainRow :=
  [⟨.b, .x, 1⟩, ⟨.b, .x, 3⟩, ⟨.a, .b, 3⟩, ⟨.a, .b, 9⟩, ⟨.b, .a, 1⟩, ⟨.a, .x, 18⟩,
   ⟨.a, .b, 37⟩, ⟨.b, .a, 37⟩, ⟨.b, .a, 111⟩, ⟨.a, .b, 1⟩, ⟨.b, .x, 223⟩]

/-- The value of a chain register. -/
def chainRead {α : Type} (x : α) (r : ChainRegs α) : ChainSrc → α
  | .x => x
  | .a => r.a
  | .b => r.b

/-- `n` repeated squarings. -/
def squareTimes {α : Type} (mul : α → α → α) : Nat → α → α
  | 0, c => c
  | n + 1, c => squareTimes mul n (mul c c)

/-- One stage: `R[s] <- mul(R[m], c)`, `c <- R[s]`, then the squarings of `c` (rule R201). -/
def chainStage {α : Type} (mul : α → α → α) (x : α) (r : ChainRegs α) (g : ChainRow) : ChainRegs α :=
  let y := mul (chainRead x r g.src) r.c
  match g.dst with
  | .a => ⟨y, r.b, squareTimes mul g.squarings y⟩
  | .b => ⟨r.a, y, squareTimes mul g.squarings y⟩

/-- `isqrt_fn` over `mul`, with `a` and `b` starting at `a0` and `b0`, which are never read before
they are written (rule R201). -/
def isqrtChain {α : Type} (mul : α → α → α) (a0 b0 x : α) : α :=
  let r := chain.foldl (chainStage mul x) ⟨a0, b0, mul x x⟩
  mul r.a r.c

/-- `inv_fn` over `mul` (rule R204). UNVERIFIED against the source: the operand order of the last step
is the spec's decision D29. -/
def invChain {α : Type} (mul : α → α → α) (a0 b0 x : α) : α :=
  let w := isqrtChain mul a0 b0 (mul x x)
  mul x (mul w w)

end Sys2Proof.Machine
end

