-- ==== Sys2Proof/Machine/Inversion.lean ====
section
/-! DEFINITION. The source's component 3 (spec/42_inversion.md): the inversion engine over `mul_fn`,
and the commands FE.ISQRT and FE.INV. -/

namespace Sys2Proof.Machine

/-- `isqrt_fn` (rule R201). The chain registers start at ZERO, which no result depends on. -/
def isqrtFn (x : FE) : FE := isqrtChain mulFn zeroLimbs zeroLimbs x

/-- `inv_fn` (rule R204). -/
def invFn (x : FE) : FE := invChain mulFn zeroLimbs zeroLimbs x

/-- FE.ISQRT (rule R203). -/
def execIsqrt (rd rs1 : Reg) (s : State) : Host.Outcome State Fault Refusal :=
  finishWrite rd (isqrtFn (s.readFr rs1)) s

/-- FE.INV (rule R205). -/
def execInv (rd rs1 : Reg) (s : State) : Host.Outcome State Fault Refusal :=
  finishWrite rd (invFn (s.readFr rs1)) s

end Sys2Proof.Machine
end

