-- ==== Sys2Proof/Machine/Dispatch.lean ====
section
/-! DEFINITION. The unit's completion step for each command: one arm per constructor, each one call of
the command's meaning. -/

namespace Sys2Proof.Machine

def exec (i : Instr) (s : State) : Host.Outcome State Fault Refusal :=
  match i with
  | .copy rd rs1 => Sys2Proof.Machine.execCopy rd rs1 s
  | .reduce rd rs1 => Sys2Proof.Machine.execReduce rd rs1 s
  | .canon rd rs1 => Sys2Proof.Machine.execCanon rd rs1 s
  | .ldc rd k => Sys2Proof.Machine.execLdc rd k s
  | .add rd rs1 rs2 => Sys2Proof.Machine.execAdd rd rs1 rs2 s
  | .sub rd rs1 rs2 => Sys2Proof.Machine.execSub rd rs1 rs2 s
  | .mul rd rs1 rs2 => Sys2Proof.Machine.execMul rd rs1 rs2 s
  | .sqr rd rs1 => Sys2Proof.Machine.execSqr rd rs1 s
  | .cswap ra rb swap => Sys2Proof.Machine.execCswap ra rb swap s
  | .mulw rd rs1 w => Sys2Proof.Machine.execMulw rd rs1 w s
  | .isqrt rd rs1 => Sys2Proof.Machine.execIsqrt rd rs1 s
  | .inv rd rs1 => Sys2Proof.Machine.execInv rd rs1 s
  | .frombytes rd => Sys2Proof.Machine.execFrombytes rd s
  | .tobytes rs1 => Sys2Proof.Machine.execTobytes rs1 s

end Sys2Proof.Machine
end

