-- ==== Sys2Proof/WellFormed.lean ====
section
/-! DEFINITION. Which instructions are commands an encoding exists for. The types already hold the
register numbers, the constants and the swap bit to their legal values; one check is left, FE.MULW's
multiplier (spec/30_encoding.md rule R94). -/

namespace Sys2Proof

/-- `1 ≤ w ≤ 65535` for FE.MULW (rule R94); every other instruction is well formed. -/
def Instr.wf : Instr → Bool
  | .mulw _ _ w => w != 0#16
  | .copy _ _ => true
  | .reduce _ _ => true
  | .canon _ _ => true
  | .ldc _ _ => true
  | .add _ _ _ => true
  | .sub _ _ _ => true
  | .mul _ _ _ => true
  | .sqr _ _ => true
  | .cswap _ _ _ => true
  | .isqrt _ _ => true
  | .inv _ _ => true
  | .frombytes _ => true
  | .tobytes _ => true

end Sys2Proof
end

