-- ==== Sys2Proof/Decode.lean ====
section
/-! DEFINITION. The command word (spec/30_encoding.md): its fields (rule R91), the acceptance check
(rule R103), the decoder, and the encoder. The decoder reads the reserved bits off each command's
own Exceptions line and the check off the format's RESMASK, so the two are written apart. -/

namespace Sys2Proof

/-- OP, `v[7:0]` (rule R91). -/
def opField (v : Word) : BitVec 8 := v.extractLsb' 0 8

/-- A 4-bit register field whose lowest bit is bit `lo` (rules R91, R93). -/
def regField (v : Word) (lo : Nat) : Reg := (v.extractLsb' lo 4).toFin

/-- RD, or RA for FE.CSWAP, `v[11:8]`. -/
def rdField (v : Word) : Reg := regField v 8

/-- RS1, or RB for FE.CSWAP, `v[15:12]`. -/
def rs1Field (v : Word) : Reg := regField v 12

/-- RS2, `v[19:16]`. -/
def rs2Field (v : Word) : Reg := regField v 16

/-- IMM16, `v[31:16]`. -/
def immField (v : Word) : BitVec 16 := v.extractLsb' 16 16

/-- K, `v[17:16]`. -/
def kField (v : Word) : BitVec 2 := v.extractLsb' 16 2

/-- S, `v[16]`. -/
def swapField (v : Word) : Bool := v[16]

/-- RESMASK, the reserved bits of a format (rule R92). -/
def resMask : Format → Word
  | .rr => 0xFFFF0000#32
  | .rrr => 0xFFF00000#32
  | .ri => 0x00000000#32
  | .rk => 0xFFFCF000#32
  | .sw => 0xFFFE0000#32
  | .d => 0xFFFFF000#32
  | .s => 0xFFFF0F00#32

/-- The format an assigned opcode has, and `none` for every unassigned one (rules R98, R99). -/
def formatOf (op : BitVec 8) : Option Format :=
  if op = 0x01#8 then some .rr
  else if op = 0x02#8 then some .rr
  else if op = 0x03#8 then some .rr
  else if op = 0x04#8 then some .rk
  else if op = 0x10#8 then some .rrr
  else if op = 0x11#8 then some .rrr
  else if op = 0x12#8 then some .rrr
  else if op = 0x13#8 then some .rr
  else if op = 0x14#8 then some .sw
  else if op = 0x15#8 then some .ri
  else if op = 0x20#8 then some .rr
  else if op = 0x21#8 then some .rr
  else if op = 0x30#8 then some .d
  else if op = 0x31#8 then some .s
  else none

/-- The acceptance check, its tests in the order of rules R103 and R266. -/
def check (v : Word) : ErrCode :=
  match formatOf (opField v) with
  | none => .illegalOpcode
  | some f =>
    if v &&& resMask f ≠ 0#32 then .reservedField
    else if opField v = 0x15#8 ∧ immField v = 0#16 then .illegalOperand
    else if opField v = 0x04#8 ∧ kField v = 3#2 then .illegalOperand
    else .none

/-- A word whose bits from `lo` up must be 0, and the instruction it is if they are (rule R97). -/
def decodeFrom (v : Word) (lo : Nat) (i : Instr) : Except ErrCode Instr :=
  if v >>> lo ≠ 0#32 then .error .reservedField else .ok i

/-- FE.LDC's word: RS1 bits and bits 31:18 reserved, K = 3 illegal (rules R96, R126). -/
def decodeLdc (v : Word) : Except ErrCode Instr :=
  if v.extractLsb' 12 4 ≠ 0#4 ∨ v >>> 18 ≠ 0#32 then .error .reservedField
  else if kField v = 0#2 then .ok (.ldc (rdField v) .zero)
  else if kField v = 1#2 then .ok (.ldc (rdField v) .one)
  else if kField v = 2#2 then .ok (.ldc (rdField v) .prime)
  else .error .illegalOperand

/-- FE.MULW's word: no reserved bits, IMM16 = 0 illegal (rules R94, R157). -/
def decodeMulw (v : Word) : Except ErrCode Instr :=
  if immField v = 0#16 then .error .illegalOperand
  else .ok (.mulw (rdField v) (rs1Field v) (immField v))

/-- FE.TOBYTES's word: RD bits and bits 31:16 reserved (rule R235). -/
def decodeTobytes (v : Word) : Except ErrCode Instr :=
  if v.extractLsb' 8 4 ≠ 0#4 then .error .reservedField else decodeFrom v 16 (.tobytes (rs1Field v))

/-- The command a word is, or the code it is rejected by. OP alone fixes the meaning of every other
bit (rule R100); every OP not named here is illegal (rule R99). -/
def decode (v : Word) : Except ErrCode Instr :=
  let op := opField v
  let rd := rdField v
  let rs1 := rs1Field v
  let rs2 := rs2Field v
  if op = 0x01#8 then decodeFrom v 16 (.copy rd rs1)
  else if op = 0x02#8 then decodeFrom v 16 (.reduce rd rs1)
  else if op = 0x03#8 then decodeFrom v 16 (.canon rd rs1)
  else if op = 0x04#8 then decodeLdc v
  else if op = 0x10#8 then decodeFrom v 20 (.add rd rs1 rs2)
  else if op = 0x11#8 then decodeFrom v 20 (.sub rd rs1 rs2)
  else if op = 0x12#8 then decodeFrom v 20 (.mul rd rs1 rs2)
  else if op = 0x13#8 then decodeFrom v 16 (.sqr rd rs1)
  else if op = 0x14#8 then decodeFrom v 17 (.cswap rd rs1 (swapField v))
  else if op = 0x15#8 then decodeMulw v
  else if op = 0x20#8 then decodeFrom v 16 (.isqrt rd rs1)
  else if op = 0x21#8 then decodeFrom v 16 (.inv rd rs1)
  else if op = 0x30#8 then decodeFrom v 12 (.frombytes rd)
  else if op = 0x31#8 then decodeTobytes v
  else .error .illegalOpcode

/-- The instruction the decoder reads from a table word: a command is exactly one 32-bit word (rule
R90), so the bits above `nbits` are 0 and there is nothing above bit 31. -/
def decodeTableWord (nbits w : Nat) : Option Instr :=
  if 32 < nbits then none
  else match decode (BitVec.ofNat 32 (w % 2 ^ nbits)) with
    | .ok i => some i
    | .error _ => none

/-- A register number as a 4-bit field. -/
def regBits (r : Reg) : BitVec 4 := BitVec.ofNat 4 r.val

/-- The selector of a constant (rule R96). -/
def romBits : RomConst → BitVec 2
  | .zero => 0#2
  | .one => 1#2
  | .prime => 2#2

/-- The opcode of an instruction (rule R98). -/
def Instr.opcode : Instr → BitVec 8
  | .copy _ _ => 0x01#8
  | .reduce _ _ => 0x02#8
  | .canon _ _ => 0x03#8
  | .ldc _ _ => 0x04#8
  | .add _ _ _ => 0x10#8
  | .sub _ _ _ => 0x11#8
  | .mul _ _ _ => 0x12#8
  | .sqr _ _ => 0x13#8
  | .cswap _ _ _ => 0x14#8
  | .mulw _ _ _ => 0x15#8
  | .isqrt _ _ => 0x20#8
  | .inv _ _ => 0x21#8
  | .frombytes _ => 0x30#8
  | .tobytes _ => 0x31#8

/-- The layout `{hi16, RS1, RD, OP}` every format refines (rules R91, R92). -/
def layout (hi : BitVec 16) (rs1 rd : BitVec 4) (op : BitVec 8) : Word := hi ++ rs1 ++ rd ++ op

/-- The command word of an instruction, bit by bit from the layouts of rule R92. -/
def encode : Instr → Word
  | .copy rd rs1 => layout 0#16 (regBits rs1) (regBits rd) 0x01#8
  | .reduce rd rs1 => layout 0#16 (regBits rs1) (regBits rd) 0x02#8
  | .canon rd rs1 => layout 0#16 (regBits rs1) (regBits rd) 0x03#8
  | .ldc rd k => layout (0#14 ++ romBits k) 0#4 (regBits rd) 0x04#8
  | .add rd rs1 rs2 => layout (0#12 ++ regBits rs2) (regBits rs1) (regBits rd) 0x10#8
  | .sub rd rs1 rs2 => layout (0#12 ++ regBits rs2) (regBits rs1) (regBits rd) 0x11#8
  | .mul rd rs1 rs2 => layout (0#12 ++ regBits rs2) (regBits rs1) (regBits rd) 0x12#8
  | .sqr rd rs1 => layout 0#16 (regBits rs1) (regBits rd) 0x13#8
  | .cswap ra rb s => layout (0#15 ++ BitVec.ofBool s) (regBits rb) (regBits ra) 0x14#8
  | .mulw rd rs1 w => layout w (regBits rs1) (regBits rd) 0x15#8
  | .isqrt rd rs1 => layout 0#16 (regBits rs1) (regBits rd) 0x20#8
  | .inv rd rs1 => layout 0#16 (regBits rs1) (regBits rd) 0x21#8
  | .frombytes rd => layout 0#16 0#4 (regBits rd) 0x30#8
  | .tobytes rs1 => layout 0#16 (regBits rs1) 0#4 0x31#8

end Sys2Proof
end

