-- ==== Sys2Proof/Machine/HostPort.lean ====
section
/-! DEFINITION. The slave port (spec/20_memory.md): which register an access reaches (rules R61, R64
to R66), what a read returns and changes (rules R69, R76), what a write does (rules R29, R31, R63, R74;
spec/60_exceptions.md rule R265), and the soft reset (spec/70_reset_and_hazards.md rule R301). -/

namespace Sys2Proof.Machine

/-- A register of the window (rule R61). -/
inductive WindowReg where
  | cmd | status | ctrl | id
  /-- IOBUF word `j` -/
  | iobuf (j : Fin 14)
deriving DecidableEq, Repr

/-- The offset of a bus address in the window, if it lies in it (rules R60, R70). -/
def windowOffset (addr : Nat) : Option Nat :=
  if Config.feuBase ≤ addr ∧ addr < Config.feuBase + Config.windowBytes
  then some (addr - Config.feuBase) else none

/-- The register at an offset; `none` where the offset is misaligned (rule R65) or unmapped (rule
R61). -/
def windowReg (off : Nat) : Option WindowReg :=
  if off = 0x00 then some .cmd
  else if off = 0x04 then some .status
  else if off = 0x08 then some .ctrl
  else if off = 0x0C then some .id
  else if h : 0x40 ≤ off ∧ off ≤ 0x74 ∧ off % 4 = 0 then some (.iobuf ⟨(off - 0x40) / 4, by omega⟩)
  else none

/-- The register an access reaches, or `none` for the bus's ERROR response (rule R66). -/
def accessReg (a : Access) : Option WindowReg :=
  if a.width = .w32 then (windowOffset a.addr).bind windowReg else none

/-- The port's answer to an access. -/
def answer (r : Response) (s : State) : State := { s with response := some r }

/-- Whether the command in flight is FE.FROMBYTES or FE.TOBYTES (rules R76, R100). -/
def codecInFlight (s : State) : Bool :=
  match s.pend with
  | none => false
  | some v => s.status.busy && (opField v == 0x30#8 || opField v == 0x31#8)

/-- A host read of IOBUF word `j`: a free word while a codec command is in flight, else the current
contents (rules R63, R76, R312). -/
def readIobuf (j : Fin 14) (s : State) : State :=
  if codecInFlight s then
    { answer (.okayData (Config.freeWord s.draws)) s with draws := s.draws + 1 }
  else answer (.okayData (readWord s.iobuf j)) s

/-- A host read; it changes nothing of the unit (rules R61, R69). -/
def hostRead (r : WindowReg) (s : State) : State :=
  match r with
  | .cmd => answer (.okayData s.cmd) s
  | .status => answer (.okayData (statusWord s.status)) s
  | .ctrl => answer (.okayData (ctrlWord s.ctrl)) s
  | .id => answer (.okayData Config.idValue) s
  | .iobuf j => readIobuf j s

/-- A word is sampled into CMD and DONE is cleared (rule R74). -/
def sampleCommand (v : Word) (s : State) : State := { s.mapStatus statusSampled with cmd := v }

/-- A sampled word that passes the check goes into PEND and BUSY is set (rule R74). -/
def acceptCommand (v : Word) (s : State) : State :=
  { s.mapStatus statusAccepted with pend := some v }

/-- A host write of `v` to CMD (rules R74, R265). -/
def writeCmd (v : Word) (s : State) : State :=
  if s.status.busy then raiseCmdError .busyWrite s
  else if check v = .none then acceptCommand v (sampleCommand v s)
  else raiseCmdError (check v) (sampleCommand v s)

/-- A host write of `v` to IOBUF word `j` (rules R63, R265). -/
def writeIobuf (j : Fin 14) (v : Word) (s : State) : State :=
  if s.status.busy then raiseCmdError .busyWrite s
  else s.setIobuf (writeWord s.iobuf j v)

/-- A host write of `v` to CTRL: SRST resets, and the other bits are then discarded (rules R31,
R301). -/
def writeCtrl (v : Word) (s : State) : State :=
  if v[31] then applyReset s else { s with ctrl := ctrlWritten v }

/-- A host write; each gets an OKAY response (rules R61, R67, R265, R301). -/
def hostWrite (r : WindowReg) (v : Word) (s : State) : State :=
  answer .okay (match r with
    | .cmd => writeCmd v s
    | .status => s.mapStatus (statusW1C v)
    | .ctrl => writeCtrl v s
    | .id => s
    | .iobuf j => writeIobuf j v s)

/-- One host access, one atomic step (rules R66, R68, R270). -/
def hostAccess (a : Access) (s : State) : Host.Outcome State Fault Refusal :=
  match accessReg a with
  | none => .fault .busError
  | some r =>
    match a.kind with
    | .read => .next (hostRead r s)
    | .write v => .next (hostWrite r v s)

/-- `MemRead(off, 4)` (rule R12). -/
def memRead (off : Nat) : Access := ⟨.read, .w32, Config.feuBase + off⟩

/-- `MemWrite(off, 4, v)` (rule R12). -/
def memWrite (off : Nat) (v : Word) : Access := ⟨.write v, .w32, Config.feuBase + off⟩

end Sys2Proof.Machine
end

