-- ==== Sys2Proof/Machine/Agents.lean ====
section
/-! DEFINITION. What each move does: the unit's step *complete* (spec/20_memory.md rules R72, R74), a
host access, and the edges of `rst_n` (spec/70_reset_and_hazards.md rules R300 to R302). -/

namespace Sys2Proof.Machine

/-- The unit's step: the command in PEND is performed; with PEND empty the step is not enabled and
the unit holds all its state (rules R72, R74, R283). -/
def unitStep (s : State) : Host.Outcome State Fault Refusal :=
  match s.pend with
  | none => .next s
  | some v =>
    match decode v with
    | .ok i => exec i s
    | .error _ => .refused .pendNotACommand

/-- `rst_n` goes low: the reset takes effect at once (rule R301). -/
def assertReset (s : State) : State := { applyReset s with rstN := false }

/-- `rst_n` goes high: the unit leaves reset, idle (rule R303). -/
def releaseReset (s : State) : State := { s with rstN := true }

/-- A host access made while `rst_n` is low is not answered and changes nothing (rule R301). -/
def unanswered (s : State) : State := { s with response := none }

/-- One move. While `rst_n` is low neither agent takes effect (rules R300, R301). -/
def doMove (m : Move) (s : State) : Host.Outcome State Fault Refusal :=
  match m with
  | .host a => if s.rstN then hostAccess a s else .next (unanswered s)
  | .complete => if s.rstN then unitStep s else .next s
  | .rstLow => .next (assertReset s)
  | .rstHigh => .next (releaseReset s)

/-- The next move: the agenda's head, and with no move left the unit's own step, since an accepted
command completes without any host move (rules R72, R307, R320). -/
def nextMove (s : State) : Host.Outcome State Fault Refusal :=
  match s.agenda with
  | [] => doMove .complete s
  | m :: rest => doMove m (s.setAgenda rest)

/-- The state in which `v` has been accepted and the unit moves next: what a CMD write of `v` leaves
in an idle unit (rule R74), whatever `v` is. -/
def placeCommand (v : Word) (s : State) : State :=
  (releaseReset (acceptCommand v (sampleCommand v s))).setAgenda (.complete :: s.agenda)

end Sys2Proof.Machine
end

