-- ==== Sys2Proof/Machine/Step.lean ====
section
/-! DEFINITION. One step of FEU448: one move of one agent (spec/20_memory.md rules R68, R72), and the
placing of a command where the next step performs it. -/

namespace Sys2Proof.Machine

/-- One step. -/
def step (s : State) : Host.Outcome State Fault Refusal := nextMove s

/-- `s` with the command word `w` accepted, so that the next step performs it. FEU448 fetches at no
program counter (spec/10_state.md rule R37): a command comes to run by a CMD write, and this stands
for that write. The word has 32 bits, those above `nbits` zero. -/
def State.withFetchWord (s : State) (nbits w : Nat) : State :=
  placeCommand (BitVec.ofNat 32 (w % 2 ^ nbits)) s

end Sys2Proof.Machine
end

