-- ==== Sys2Proof/Machine/Assembler.lean ====
section
/-! DEFINITION. The assembler's view of a command (spec/30_encoding.md rules R101, R102): its operands,
what an assembler refuses, and the pseudo-instructions with their expansions. Syntax has no effect of
its own; nothing in the machine reads this file. Mnemonics are written in capitals, as the spec
writes them. -/

namespace Sys2Proof.Machine

/-- A written operand: `fN`, a number, or a name. -/
inductive AsmOperand where
  | reg (n : Nat)
  | num (n : Int)
  | name (s : String)
deriving DecidableEq, Repr

/-- The pseudo-instructions (rule R102). -/
inductive Pseudo where
  | clr (rd : Reg)
  | one (rd : Reg)
  | ldp (rd : Reg)
  | mov (rd rs1 : Reg)
  | dbl (rd rs1 : Reg)
  | swap (ra rb : Reg)
  /-- `rt` is clobbered -/
  | neg (rd rs1 rt : Reg)
deriving DecidableEq, Repr

/-- `fe.neg`'s third register must differ from its second (rule R102). -/
def Pseudo.wf : Pseudo → Bool
  | .neg _ rs1 rt => rt != rs1
  | .clr _ => true
  | .one _ => true
  | .ldp _ => true
  | .mov _ _ => true
  | .dbl _ _ => true
  | .swap _ _ => true

/-- The commands a pseudo-instruction stands for, in order (rule R102). -/
def Pseudo.expand : Pseudo → List Instr
  | .clr rd => [.ldc rd .zero]
  | .one rd => [.ldc rd .one]
  | .ldp rd => [.ldc rd .prime]
  | .mov rd rs1 => [.copy rd rs1]
  | .dbl rd rs1 => [.add rd rs1 rs1]
  | .swap ra rb => [.cswap ra rb true]
  | .neg rd rs1 rt => [.ldc rt .zero, .sub rd rt rs1]

/-- A register operand; one outside f0 to f15 is refused (rule R101). -/
def asmReg : AsmOperand → Option Reg
  | .reg n => if h : n < 16 then some ⟨n, h⟩ else none
  | .num _ => none
  | .name _ => none

/-- FE.MULW's multiplier; one outside 1 to 65535 is refused, a negative one with it (rules R101,
R284). -/
def asmMultiplier : AsmOperand → Option (BitVec 16)
  | .num n => if 1 ≤ n ∧ n ≤ 65535 then some (BitVec.ofInt 16 n) else none
  | .reg _ => none
  | .name _ => none

/-- FE.CSWAP's S; anything but 0 and 1 is refused (rule R101). -/
def asmSwap : AsmOperand → Option Bool
  | .num n => if n = 0 then some false else if n = 1 then some true else none
  | .reg _ => none
  | .name _ => none

/-- FE.LDC's constant; any other name is refused (rule R101). -/
def asmConst : AsmOperand → Option RomConst
  | .name s =>
    if s = "zero" then some .zero else if s = "one" then some .one
    else if s = "p" then some .prime else none
  | .reg _ => none
  | .num _ => none

/-- A form of one register. -/
def asmR (f : Reg → Instr) : List AsmOperand → Option Instr
  | [d] => (asmReg d).map f
  | _ => none

/-- A form of two registers, destination first. -/
def asmRR (f : Reg → Reg → Instr) : List AsmOperand → Option Instr
  | [d, s] => (asmReg d).bind fun d => (asmReg s).map (f d)
  | _ => none

/-- A form of three registers, destination first. -/
def asmRRR (f : Reg → Reg → Reg → Instr) : List AsmOperand → Option Instr
  | [d, s, t] => (asmReg d).bind fun d => (asmReg s).bind fun s => (asmReg t).map (f d s)
  | _ => none

/-- `fe.ldc fD, zero / one / p`. -/
def asmLdc : List AsmOperand → Option Instr
  | [d, k] => (asmReg d).bind fun d => (asmConst k).map (Instr.ldc d)
  | _ => none

/-- `fe.cswap fA, fB, S`. -/
def asmCswap : List AsmOperand → Option Instr
  | [a, b, s] => (asmReg a).bind fun a => (asmReg b).bind fun b => (asmSwap s).map (Instr.cswap a b)
  | _ => none

/-- `fe.mulw fD, fS, w`. -/
def asmMulw : List AsmOperand → Option Instr
  | [d, s, w] => (asmReg d).bind fun d => (asmReg s).bind fun s => (asmMultiplier w).map (Instr.mulw d s)
  | _ => none

/-- The instruction a written command is, or `none` where an assembler refuses it (rule R101). -/
def assemble (mnemonic : String) (ops : List AsmOperand) : Option Instr :=
  if mnemonic = "FE.COPY" then asmRR .copy ops
  else if mnemonic = "FE.REDUCE" then asmRR .reduce ops
  else if mnemonic = "FE.CANON" then asmRR .canon ops
  else if mnemonic = "FE.LDC" then asmLdc ops
  else if mnemonic = "FE.ADD" then asmRRR .add ops
  else if mnemonic = "FE.SUB" then asmRRR .sub ops
  else if mnemonic = "FE.MUL" then asmRRR .mul ops
  else if mnemonic = "FE.SQR" then asmRR .sqr ops
  else if mnemonic = "FE.CSWAP" then asmCswap ops
  else if mnemonic = "FE.MULW" then asmMulw ops
  else if mnemonic = "FE.ISQRT" then asmRR .isqrt ops
  else if mnemonic = "FE.INV" then asmRR .inv ops
  else if mnemonic = "FE.FROMBYTES" then asmR .frombytes ops
  else if mnemonic = "FE.TOBYTES" then asmR .tobytes ops
  else none

end Sys2Proof.Machine
end

