-- ==== Sys2Proof/Machine/Timing.lean ====
section
/-! DEFINITION. What a program can know of time (spec/70_reset_and_hazards.md rules R317 to R319): the
latency of a command, open but a function of its opcode alone, and the datapath work per command. The
step has no time and reads nothing of this file. -/

namespace Sys2Proof.Machine

/-- The cycles a command takes from acceptance to completion (rules R317, R318). -/
def latency (i : Instr) : Nat := Config.lat i.opcode

/-- How often each datapath function is evaluated (rule R319). -/
structure Work where
  mul : Nat
  /-- outside `mul_fn` and `canon_fn` -/
  reduce : Nat
  canon : Nat
deriving DecidableEq, Repr

/-- The general multiplies of the chain: one a stage, and the final one (rule R207). -/
def chainMultiplies (c : List ChainRow) : Nat := c.length + 1

/-- The squarings of the chain: the initial one and those of the stages (rule R207). -/
def chainSquarings (c : List ChainRow) : Nat := 1 + (c.map ChainRow.squarings).sum

/-- `mul_fn` evaluations of `isqrt_fn` (rule R207). -/
def isqrtMuls : Nat := chainMultiplies chain + chainSquarings chain

/-- `mul_fn` evaluations of `inv_fn`: the chain, two squarings and the last multiply (rule R207). -/
def invMuls : Nat := isqrtMuls + 3

/-- The datapath work of a command; it depends on no operand value (rules R318, R319). -/
def datapathWork : Instr → Work
  | .copy _ _ => ⟨0, 0, 0⟩
  | .reduce _ _ => ⟨0, 1, 0⟩
  | .canon _ _ => ⟨0, 0, 1⟩
  | .ldc _ _ => ⟨0, 0, 0⟩
  | .add _ _ _ => ⟨0, 1, 0⟩
  | .sub _ _ _ => ⟨0, 1, 0⟩
  | .mul _ _ _ => ⟨1, 0, 0⟩
  | .sqr _ _ => ⟨1, 0, 0⟩
  | .cswap _ _ _ => ⟨0, 0, 0⟩
  | .mulw _ _ _ => ⟨1, 0, 0⟩
  | .isqrt _ _ => ⟨isqrtMuls, 0, 0⟩
  | .inv _ _ => ⟨invMuls, 0, 0⟩
  | .frombytes _ => ⟨0, 0, 0⟩
  | .tobytes _ => ⟨0, 0, 1⟩

end Sys2Proof.Machine
end

