-- ==== Sys2Proof/Safety.lean ====
section
/-! DEFINITION. What claims speak of: the limb bound WR (spec/10_state.md rules R22, R23), canonical
form (spec/00_scope.md rule R14), the invariant of the machine, the clean-entry state and the end of
a run (spec/70_reset_and_hazards.md rules R305, R306), runs without an error, and the states no host
can tell apart (spec/00_scope.md rule R13). -/

namespace Sys2Proof.Machine

/-- WR: limbs 0 to 14 at most `0x0FFFFFFF`, limb 15 at most `0x1000001F` (rule R22). -/
abbrev WR (x : FE) : Prop :=
  (∀ k : Fin 16, k ≠ 15 → (x.lane k).toNat ≤ 0x0FFFFFFF) ∧ (x.lane 15).toNat ≤ 0x1000001F

/-- Every limb at most `0x0FFFFFFF`. -/
abbrev Tight (x : FE) : Prop := ∀ k : Fin 16, (x.lane k).toNat ≤ 0x0FFFFFFF

/-- Canonical form: the unique representative in `[0, P)` (rule R14). -/
abbrev Canonical (x : FE) : Prop := Tight x ∧ val x < Config.P

/-- The field element `x` denotes, `val(x) mod P` (rule R11). -/
def residue (x : FE) : Nat := val x % Config.P

/-- No command error has been raised so far, whatever the host has cleared since
(spec/93_implementation_defined.md). -/
def State.ErrorFree (s : State) : Prop := s.errorLog = []

/-- What holds of FEU448 in every state of a run. -/
structure State.Inv (s : State) : Prop where
  /-- every FR register is WR (rule R23) -/
  frWR : ∀ r : Reg, WR (s.readFr r)
  /-- IOBUF is in canonical form -/
  iobufWf : s.iobuf.wf = true
  /-- PEND is non-empty exactly when BUSY = 1 (rule R34) -/
  busyPend : s.status.busy = s.pend.isSome
  /-- the command in flight passed the check, CMD holds it, and DONE is 0 (rules R28, R29, R74) -/
  pendChecked : ∀ v : Word, s.pend = some v → check v = .none ∧ s.cmd = v ∧ s.status.done = false
  /-- ERRCODE is 0 exactly when ERR = 0 (rules R29, R261) -/
  errCode : s.status.err = false ↔ s.status.errcode = .none
  /-- with no command error raised so far, ERR is 0 (rules R29, R260) -/
  logged : s.ErrorFree → s.status.err = false
  /-- while `rst_n` is low every piece of the unit's state is at its reset value (rule R301) -/
  heldInReset : s.rstN = false → applyReset s = s

/-- The clean-entry state, IOBUF aside (rule R305). -/
structure State.CleanEntry (s : State) : Prop where
  idle : s.status.busy = false ∧ s.pend = none
  noError : s.status.err = false ∧ s.status.errcode = .none
  flagsClear : s.status.done = false ∧ s.status.noncanon = false
  ctrlClear : s.ctrl = ⟨false, false⟩
  frWR : ∀ r : Reg, WR (s.readFr r)

/-- Whether a move is one of the host's accesses. -/
def Move.isHost : Move → Bool
  | .host _ => true
  | .complete => false
  | .rstLow => false
  | .rstHigh => false

/-- A run is over: the host has made its last access and nothing is in flight (rule R306). -/
def State.RunOver (s : State) : Prop := (∀ m ∈ s.agenda, m.isHost = false) ∧ s.pend = none

/-- A move that neither gets a bus error nor resets the unit. -/
def Move.orderly : Move → Bool
  | .complete => true
  | .rstLow => false
  | .rstHigh => true
  | .host a =>
    match accessReg a with
    | none => false
    | some .ctrl => (match a.kind with | .read => true | .write v => !v[31])
    | some .cmd => true
    | some .status => true
    | some .id => true
    | some (.iobuf _) => true

/-- Two states that differ at most in the limbs of registers denoting the same field elements: no
host access can tell them apart (rule R13). -/
structure SameToHost (s t : State) : Prop where
  frResidue : ∀ r : Reg, residue (s.readFr r) = residue (t.readFr r)
  rest : { s with fr := t.fr } = t

/-- What every completion does to the life cycle, and what no completion touches: CMD, ERR, ERRCODE,
CTRL, the reset pin, and the model's own fields (rules R36, R74, R120, R272). -/
structure Completes (s t : State) : Prop where
  pend : t.pend = none
  busy : t.status.busy = false
  done : t.status.done = true
  err : t.status.err = s.status.err
  errcode : t.status.errcode = s.status.errcode
  cmd : t.cmd = s.cmd
  ctrl : t.ctrl = s.ctrl
  rstN : t.rstN = s.rstN
  response : t.response = s.response
  agenda : t.agenda = s.agenda
  draws : t.draws = s.draws
  errorLog : t.errorLog = s.errorLog

/-- A completion that writes no register but `rd`, no byte of IOBUF and not NONCANON (rules R21,
R36). -/
structure WritesOnly (rd : Reg) (s t : State) : Prop extends Completes s t where
  otherRegs : ∀ r : Reg, r ≠ rd → t.readFr r = s.readFr r
  noncanon : t.status.noncanon = s.status.noncanon
  bytes : ∀ a : Nat, t.iobuf.read a = s.iobuf.read a

/-- The unit's own state is the same in both: FR, IOBUF, CMD, STATUS, CTRL and PEND. -/
structure SameUnit (s t : State) : Prop where
  regs : ∀ r : Reg, t.readFr r = s.readFr r
  bytes : ∀ a : Nat, t.iobuf.read a = s.iobuf.read a
  cmd : t.cmd = s.cmd
  status : t.status = s.status
  ctrl : t.ctrl = s.ctrl
  pend : t.pend = s.pend

/-- Every piece of the unit's state is at its reset value (rule R301). -/
structure AllReset (t : State) : Prop where
  regs : ∀ (r : Reg) (k : Fin 16), (t.readFr r).lane k = 0#32
  bytes : ∀ a : Nat, t.iobuf.read a = 0x00#8
  cmd : t.cmd = 0x00000000#32
  status : statusWord t.status = 0x00000000#32
  ctrl : ctrlWord t.ctrl = 0x00000000#32
  pend : t.pend = none

end Sys2Proof.Machine
end

