-- ==== Sys2Proof/Certificates/Slice0/Obligations.lean ====
section
/-! DEFINITION. The statements for the provers. -/

open Sys2Proof Sys2Proof.Machine

/-! ## Encoding (spec/30_encoding.md) -/

/-- Every well-formed instruction survives its encoding, with every operand at every value (rules R90
to R98, R100). -/
def Obligations.DecodeOfEncodeIsIdentity : Prop :=
  ∀ i : Instr, i.wf = true → decode (encode i) = .ok i

/-- A word that decodes is the encoding of what it decodes to, and that is well formed: each command
has one word and no word is two commands (rules R92, R97, R100). -/
def Obligations.DecodedWordIsItsEncoding : Prop :=
  ∀ (v : Word) (i : Instr), decode v = .ok i → encode i = v ∧ i.wf = true

/-- The decoder refuses exactly the words the acceptance check rejects, by the same code (rules R103,
R266). -/
def Obligations.DecodeRejectsAsCheckSays : Prop :=
  ∀ v : Word, (∀ i, decode v = .ok i → check v = .none) ∧
    (∀ c, decode v = .error c → check v = c ∧ c ≠ .none)

/-- The example words of rule R101 are the commands written beside them. -/
def Obligations.SpecExampleWordsDecode : Prop :=
  decode 0x00001113#32 = .ok (.sqr 1 1) ∧ decode 0x00021010#32 = .ok (.add 0 1 2) ∧
  decode 0x98A94315#32 = .ok (.mulw 3 4 39081#16) ∧ decode 0x00020504#32 = .ok (.ldc 5 .prime) ∧
  decode 0x00012114#32 = .ok (.cswap 1 2 true) ∧ decode 0x00000130#32 = .ok (.frombytes 1) ∧
  decode 0x00003031#32 = .ok (.tobytes 3)

/-- Rule R99: every OP outside rule R98 is illegal, whatever the other bits, and an idle unit rejects
the word with ILLEGAL_OPCODE; an OP of rule R98 never is. -/
def Obligations.UnassignedOpcodesAreIllegal : Prop :=
  ∀ v : Word,
    let op := (opField v).toNat
    ((op = 0x00 ∨ (0x05 ≤ op ∧ op ≤ 0x0F) ∨ (0x16 ≤ op ∧ op ≤ 0x1F) ∨ (0x22 ≤ op ∧ op ≤ 0x2F) ∨
        0x32 ≤ op) →
      decode v = .error .illegalOpcode ∧ check v = .illegalOpcode ∧
      ∀ s : State, s.status.busy = false →
        writeCmd v s = raiseCmdError .illegalOpcode (sampleCommand v s)) ∧
    (((0x01 ≤ op ∧ op ≤ 0x04) ∨ (0x10 ≤ op ∧ op ≤ 0x15) ∨ op = 0x20 ∨ op = 0x21 ∨ op = 0x30 ∨
        op = 0x31) →
      check v ≠ .illegalOpcode)

/-- Rule R97: with an assigned opcode, a bit set in the format's RESMASK is what makes a word
RESERVED_FIELD, and an idle unit rejects the word so. -/
def Obligations.ReservedBitsAreNeverIgnored : Prop :=
  ∀ (v : Word) (f : Format), formatOf (opField v) = some f →
    (v &&& resMask f ≠ 0#32 ↔ check v = .reservedField) ∧
    (v &&& resMask f ≠ 0#32 → decode v = .error .reservedField ∧
      ∀ s : State, s.status.busy = false →
        writeCmd v s = raiseCmdError .reservedField (sampleCommand v s))

/-- Rule R264: among the words that pass rules R262 and R263 and reach an idle unit, ILLEGAL_OPERAND
is raised for FE.MULW with IMM16 = 0 and FE.LDC with K = 3 and for no other, which is accepted; CMD
holds the word. -/
def Obligations.IllegalOperandsExactly : Prop :=
  ∀ (v : Word) (s : State), s.status.busy = false →
    check v ≠ .illegalOpcode → check v ≠ .reservedField →
    let illegal := (opField v = 0x15#8 ∧ v.extractLsb' 16 16 = 0#16) ∨
      (opField v = 0x04#8 ∧ v.extractLsb' 16 2 = 3#2)
    let t := writeCmd v s
    t.cmd = v ∧ (illegal ↔ check v = .illegalOperand) ∧
    (illegal → t.status.err = true ∧ (s.status.err = false → t.status.errcode = .illegalOperand) ∧
      t.pend = s.pend ∧ t.status.busy = false) ∧
    (¬ illegal → t.status.err = s.status.err ∧ t.status.errcode = s.status.errcode ∧
      t.pend = some v ∧ t.status.busy = true)

/-- An assembler's output is always a command that has an encoding. In every form it refuses a register
above 15 in any operand, FE.MULW a multiplier outside 1 to 65535, FE.CSWAP an S other than 0 and 1, and
FE.LDC a constant other than `zero`, `one` and `p` (rules R101, R284). Operands are taken as already read
and mnemonics in capitals: the model's choice, log 17. -/
def Obligations.AssemblerRefusesWhatHasNoEncoding : Prop :=
  (∀ (m : String) (ops : List AsmOperand) (i : Instr), assemble m ops = some i →
    decode (encode i) = .ok i) ∧
  (∀ (m : String) (ops : List AsmOperand) (n : Nat), 16 ≤ n → .reg n ∈ ops →
    assemble m ops = none) ∧
  (∀ (d s : AsmOperand) (n : Int), n < 1 ∨ 65535 < n → assemble "FE.MULW" [d, s, .num n] = none) ∧
  (∀ (a b : AsmOperand) (n : Int), n ≠ 0 → n ≠ 1 → assemble "FE.CSWAP" [a, b, .num n] = none) ∧
  (∀ (d k : AsmOperand), k ≠ .name "zero" → k ≠ .name "one" → k ≠ .name "p" →
    assemble "FE.LDC" [d, k] = none)

/-! ## The completion step -/

/-- When the command in flight decodes, the unit's next step is the command's meaning, on the state
with the move taken off the agenda; with no move left the step is the unit's too. A placed command is
the next step's. (The agenda is the model's own, log 2.) -/
def Obligations.StepPerformsTheCommandInFlight : Prop :=
  ∀ (s : State) (v : Word) (i : Instr), decode v = .ok i →
    (s.rstN = true → s.pend = some v → s.agenda = [] → step s = exec i s) ∧
    (∀ rest, s.rstN = true → s.pend = some v → s.agenda = .complete :: rest →
      step s = exec i (s.setAgenda rest)) ∧
    step (s.withFetchWord 32 v.toNat) =
      exec i { s with pend := some v, cmd := v, rstN := true,
                      status := { s.status with busy := true, done := false } }

/-- Every command completes in every state, raising nothing (rules R120, R271, R272). That FE.MULW with
multiplier 0, which no word reaches (rule R264), has a completion at all is the model's choice, log 16. -/
def Obligations.EveryCommandCompletes : Prop :=
  ∀ (i : Instr) (s : State), ∃ t, exec i s = .next t ∧ Completes s t

/-- FE.COPY (rule R125): all 16 limbs, unreduced, whether or not the registers are one. -/
def Obligations.CopyMovesAllLimbs : Prop :=
  ∀ (rd rs1 : Reg) (s : State), ∃ t, exec (.copy rd rs1) s = .next t ∧ WritesOnly rd s t ∧
    t.readFr rd = s.readFr rs1 ∧ (rd = rs1 → ∀ r, t.readFr r = s.readFr r)

/-- FE.LDC (rules R25, R26, R96, R126): the limbs and the value of each constant. -/
def Obligations.LdcLoadsTheConstant : Prop :=
  ∀ (rd : Reg) (s : State),
    (∃ t, exec (.ldc rd .zero) s = .next t ∧ WritesOnly rd s t ∧
      (∀ k : Fin 16, (t.readFr rd).lane k = 0x00000000#32) ∧ val (t.readFr rd) = 0) ∧
    (∃ t, exec (.ldc rd .one) s = .next t ∧ WritesOnly rd s t ∧
      (∀ k : Fin 16, (t.readFr rd).lane k = if k = 0 then 0x00000001#32 else 0x00000000#32) ∧
      val (t.readFr rd) = 1) ∧
    (∃ t, exec (.ldc rd .prime) s = .next t ∧ WritesOnly rd s t ∧
      (∀ k : Fin 16, (t.readFr rd).lane k = if k = 8 then 0x0FFFFFFE#32 else 0x0FFFFFFF#32) ∧
      val (t.readFr rd) = Config.P)

/-- FE.REDUCE (rules R121, R122, R127): the value mod P is kept, the result is WR with limb 15 at most
2^28, and limbs that are all tight are unchanged. -/
def Obligations.ReduceKeepsTheValue : Prop :=
  ∀ (rd rs1 : Reg) (s : State), ∃ t, exec (.reduce rd rs1) s = .next t ∧ WritesOnly rd s t ∧
    (WR (s.readFr rs1) → residue (t.readFr rd) = residue (s.readFr rs1) ∧ WR (t.readFr rd) ∧
      ((t.readFr rd).lane 15).toNat ≤ 2 ^ 28) ∧
    (Tight (s.readFr rs1) → t.readFr rd = s.readFr rs1)

/-- Weak reduction keeps the value mod P and bounds the limbs for any limbs below 2^31, beyond WR:
what FE.ADD and FE.SUB give it (rule R122, items 1 and 2). -/
def Obligations.WeakReductionIsCongruent : Prop :=
  ∀ x : FE, (∀ k : Fin 16, (x.lane k).toNat < 2 ^ 31) →
    residue (reduceFn x) = residue x ∧
    (∀ k : Fin 16, k ≠ 15 → ((reduceFn x).lane k).toNat ≤ 0x0FFFFFFF) ∧
    ((reduceFn x).lane 15).toNat ≤ 0x0FFFFFFF + 2 ^ 4

/-- FE.CANON (rules R124, R128): the unique representative in `[0, P)`. -/
def Obligations.CanonGivesTheRepresentative : Prop :=
  ∀ (rd rs1 : Reg) (s : State), ∃ t, exec (.canon rd rs1) s = .next t ∧ WritesOnly rd s t ∧
    (WR (s.readFr rs1) →
      Canonical (t.readFr rd) ∧ val (t.readFr rd) = residue (s.readFr rs1))

/-- Rule R124, item 3, and the uniqueness of item 2: FE.CANON applied twice is FE.CANON once, and two
registers denote one field element exactly when their canonical limbs are the same. -/
def Obligations.CanonIsIdempotentAndUnique : Prop :=
  (∀ x : FE, WR x → canonFn (canonFn x) = canonFn x) ∧
  (∀ x y : FE, WR x → WR y → (residue x = residue y ↔ canonFn x = canonFn y))

/-- FE.ADD (rule R150): a + b mod P, WR with limb 15 at most 2^28 + 1; the order of the sources makes
no difference to any limb. -/
def Obligations.AddIsFieldAddition : Prop :=
  ∀ (rd rs1 rs2 : Reg) (s : State), ∃ t, exec (.add rd rs1 rs2) s = .next t ∧ WritesOnly rd s t ∧
    exec (.add rd rs2 rs1) s = .next t ∧
    (WR (s.readFr rs1) → WR (s.readFr rs2) →
      residue (t.readFr rd) = (val (s.readFr rs1) + val (s.readFr rs2)) % Config.P ∧
      WR (t.readFr rd) ∧ ((t.readFr rd).lane 15).toNat ≤ 2 ^ 28 + 1)

/-- FE.SUB (rule R151): a − b mod P, WR with limb 15 at most 2^28 + 2; a − a gives PRIME's limbs. -/
def Obligations.SubIsFieldSubtraction : Prop :=
  ∀ (rd rs1 rs2 : Reg) (s : State), ∃ t, exec (.sub rd rs1 rs2) s = .next t ∧ WritesOnly rd s t ∧
    (WR (s.readFr rs1) → WR (s.readFr rs2) →
      (residue (t.readFr rd) + val (s.readFr rs2)) % Config.P = residue (s.readFr rs1) ∧
      WR (t.readFr rd) ∧ ((t.readFr rd).lane 15).toNat ≤ 2 ^ 28 + 2) ∧
    (s.readFr rs1 = s.readFr rs2 →
      ∀ k : Fin 16, (t.readFr rd).lane k = if k = 8 then 0x0FFFFFFE#32 else 0x0FFFFFFF#32)

/-- FE.MUL (rules R153, R154): a · b mod P, WR with limb 15 at most 2^28 + 28. -/
def Obligations.MulIsFieldMultiplication : Prop :=
  ∀ (rd rs1 rs2 : Reg) (s : State), ∃ t, exec (.mul rd rs1 rs2) s = .next t ∧ WritesOnly rd s t ∧
    (WR (s.readFr rs1) → WR (s.readFr rs2) →
      residue (t.readFr rd) = (val (s.readFr rs1) * val (s.readFr rs2)) % Config.P ∧
      WR (t.readFr rd) ∧ ((t.readFr rd).lane 15).toNat ≤ 2 ^ 28 + 28)

/-- The multiply core is exact beyond WR: with every limb of both inputs at most `0x298757D1` nothing
wraps, so the accumulator after the double loop is the product mod P, and so is `mul_fn`'s result after
the clean-up (rule R153, items 1 and 2). -/
def Obligations.MulCoreIsExactBelowItsBound : Prop :=
  ∀ a b : FE, (∀ k : Fin 16, (a.lane k).toNat ≤ 0x298757D1) →
    (∀ k : Fin 16, (b.lane k).toNat ≤ 0x298757D1) →
    (∑ k : Fin 16, ((mulRows a b).lane k).toNat * 2 ^ (28 * k.val)) % Config.P =
      (val a * val b) % Config.P ∧
    residue (mulFn a b) = (val a * val b) % Config.P

/-- FE.SQR (rule R155): a² mod P, WR, and limb for limb FE.MUL with both sources equal. -/
def Obligations.SqrIsMulBySelf : Prop :=
  ∀ (rd rs1 : Reg) (s : State), ∃ t, exec (.sqr rd rs1) s = .next t ∧ WritesOnly rd s t ∧
    exec (.mul rd rs1 rs1) s = .next t ∧
    (WR (s.readFr rs1) →
      residue (t.readFr rd) = val (s.readFr rs1) ^ 2 % Config.P ∧ WR (t.readFr rd))

/-- FE.CSWAP (rule R156): S = 1 exchanges the limbs exactly, S = 0 changes neither register, and a
register swapped with itself is unchanged; no other register, no byte and no flag changes. -/
def Obligations.CswapExchangesOrKeeps : Prop :=
  ∀ (ra rb : Reg) (swap : Bool) (s : State), ∃ t, exec (.cswap ra rb swap) s = .next t ∧
    Completes s t ∧ (∀ r, r ≠ ra → r ≠ rb → t.readFr r = s.readFr r) ∧
    t.status.noncanon = s.status.noncanon ∧ (∀ a, t.iobuf.read a = s.iobuf.read a) ∧
    (swap = true → t.readFr ra = s.readFr rb ∧ t.readFr rb = s.readFr ra) ∧
    (swap = false → t.readFr ra = s.readFr ra ∧ t.readFr rb = s.readFr rb)

/-- FE.MULW (rules R94, R157): a · w mod P, WR with limb 15 at most 2^28; w = 1 leaves tight limbs as
they are. The rules give w from 1 to 65535; that w = 0, which no word reaches (rule R264), completes with
a · 0 is the model's choice, log 16. -/
def Obligations.MulwIsSmallMultiplication : Prop :=
  ∀ (rd rs1 : Reg) (w : BitVec 16) (s : State), ∃ t, exec (.mulw rd rs1 w) s = .next t ∧
    WritesOnly rd s t ∧
    (WR (s.readFr rs1) →
      residue (t.readFr rd) = (val (s.readFr rs1) * w.toNat) % Config.P ∧
      WR (t.readFr rd) ∧ ((t.readFr rd).lane 15).toNat ≤ 2 ^ 28) ∧
    (w = 1#16 → Tight (s.readFr rs1) → t.readFr rd = s.readFr rs1)

/-- The addition chain raises to the power (P − 3)/4 = 2^446 − 2^222 − 1, and the inversion built on
it to P − 2, in every monoid and whatever the chain registers start with (rules R201, R202 item 1,
R204). -/
def Obligations.ChainComputesItsExponent : Prop :=
  (Config.P - 3) / 4 = 2 ^ 446 - 2 ^ 222 - 1 ∧
  ∀ (M : Type) [Monoid M] (a0 b0 x : M),
    isqrtChain (· * ·) a0 b0 x = x ^ ((Config.P - 3) / 4) ∧
    invChain (· * ·) a0 b0 x = x ^ (Config.P - 2)

/-- FE.ISQRT (rules R202, R203): x^((P−3)/4) mod P, WR; and r²·x is x^((P−1)/2). Where x ≡ 0 the source
leaves the result undefined and the statement rests on log 13. -/
def Obligations.IsqrtIsTheFixedPower : Prop :=
  ∀ (rd rs1 : Reg) (s : State), ∃ t, exec (.isqrt rd rs1) s = .next t ∧ WritesOnly rd s t ∧
    (WR (s.readFr rs1) →
      residue (t.readFr rd) = val (s.readFr rs1) ^ ((Config.P - 3) / 4) % Config.P ∧
      (val (t.readFr rd) ^ 2 * val (s.readFr rs1)) % Config.P =
        val (s.readFr rs1) ^ ((Config.P - 1) / 2) % Config.P ∧
      WR (t.readFr rd))

/-- FE.INV (rules R204, R205): x^(P−2) mod P, WR. Where x ≡ 0 the source leaves the result undefined and
the statement rests on log 13. -/
def Obligations.InvIsTheFermatPower : Prop :=
  ∀ (rd rs1 : Reg) (s : State), ∃ t, exec (.inv rd rs1) s = .next t ∧ WritesOnly rd s t ∧
    (WR (s.readFr rs1) →
      residue (t.readFr rd) = val (s.readFr rs1) ^ (Config.P - 2) % Config.P ∧ WR (t.readFr rd))

/-- Rule R206: an input ≡ 0 gives a result ≡ 0 for FE.INV and FE.ISQRT, PRIME's limbs and ZERO's
among them; DONE is set and ERR is not. The rule derives the value from rules R201 and R204, while the
source leaves it undefined (U1 of spec/93_implementation_defined.md): log 13. No claim that should hold
of the source's library may depend on it. -/
def Obligations.InverseOfZeroIsZero : Prop :=
  ∀ (rd rs1 : Reg) (s : State),
    (WR (s.readFr rs1) ∧ residue (s.readFr rs1) = 0) ∨ s.readFr rs1 = zeroLimbs ∨
      s.readFr rs1 = primeLimbs →
    ∀ i, i = Instr.inv rd rs1 ∨ i = Instr.isqrt rd rs1 →
      ∃ t, exec i s = .next t ∧ residue (t.readFr rd) = 0 ∧ t.status.done = true ∧
        t.status.err = s.status.err

/-- FE.FROMBYTES (rules R230 to R232, R234): limb k is bits 28k+27..28k of the integer in IOBUF, the
value is that integer unreduced, NONCANON says whether it is at least P; IOBUF and every other
register are unchanged. -/
def Obligations.FrombytesLoadsTheInteger : Prop :=
  ∀ (rd : Reg) (s : State), ∃ t, exec (.frombytes rd) s = .next t ∧ Completes s t ∧
    (∀ k : Fin 16, ((t.readFr rd).lane k).toNat =
      bytesVal (readBytes s.iobuf) / 2 ^ (28 * k.val) % 2 ^ 28) ∧
    val (t.readFr rd) = bytesVal (readBytes s.iobuf) ∧
    (t.status.noncanon = true ↔ Config.P ≤ bytesVal (readBytes s.iobuf)) ∧
    (∀ r, r ≠ rd → t.readFr r = s.readFr r) ∧ (∀ a, t.iobuf.read a = s.iobuf.read a)

/-- FE.TOBYTES (rules R233, R235): IOBUF takes the canonical encoding of the register's field element;
every register and NONCANON are unchanged, and so is every byte outside IOBUF's 56. -/
def Obligations.TobytesStoresTheCanonicalEncoding : Prop :=
  ∀ (rs1 : Reg) (s : State), s.iobuf.wf = true →
    ∃ t, exec (.tobytes rs1) s = .next t ∧ Completes s t ∧ t.iobuf.wf = true ∧
      (WR (s.readFr rs1) → bytesVal (readBytes t.iobuf) = residue (s.readFr rs1)) ∧
      (∀ r, t.readFr r = s.readFr r) ∧ t.status.noncanon = s.status.noncanon ∧
      (∀ a, 56 ≤ a → t.iobuf.read a = s.iobuf.read a)

/-- Rule R236, item 1: bytes loaded and stored come back if they encode less than P, and less P
otherwise. -/
def Obligations.BytesSurviveTheRoundTrip : Prop :=
  ∀ (r : Reg) (s : State), s.iobuf.wf = true →
    ∃ t u, exec (.frombytes r) s = .next t ∧ exec (.tobytes r) t = .next u ∧
      (bytesVal (readBytes s.iobuf) < Config.P → u.iobuf = s.iobuf) ∧
      (Config.P ≤ bytesVal (readBytes s.iobuf) →
        bytesVal (readBytes u.iobuf) = bytesVal (readBytes s.iobuf) - Config.P)

/-- Rule R236, item 2: a register stored and loaded comes back in canonical form, with NONCANON 0. -/
def Obligations.ElementsSurviveTheRoundTrip : Prop :=
  ∀ (rs rd : Reg) (s : State), s.iobuf.wf = true → WR (s.readFr rs) →
    ∃ t u, exec (.tobytes rs) s = .next t ∧ exec (.frombytes rd) t = .next u ∧
      u.readFr rd = canonFn (s.readFr rs) ∧ u.status.noncanon = false

/-- Rules R82 and R314: a result depends on the sources' values alone, so the same values give the
same result whichever registers overlap.
FE.MULW with multiplier 0 is among the instructions by the model's choice, log 16. -/
def Obligations.RegisterOverlapIsSafe : Prop :=
  ∀ (f : Reg → Reg → Reg → Instr), (f = Instr.add ∨ f = Instr.sub ∨ f = Instr.mul ∨
      f = (fun d a _ => Instr.copy d a) ∨ f = (fun d a _ => Instr.reduce d a) ∨
      f = (fun d a _ => Instr.canon d a) ∨ f = (fun d a _ => Instr.sqr d a) ∨
      f = (fun d a _ => Instr.isqrt d a) ∨ f = (fun d a _ => Instr.inv d a) ∨
      ∃ w, f = (fun d a _ => Instr.mulw d a w)) →
    ∀ (rd a b rd' a' b' : Reg) (s s' t t' : State),
      s.readFr a = s'.readFr a' → s.readFr b = s'.readFr b' →
      exec (f rd a b) s = .next t → exec (f rd' a' b') s' = .next t' → t.readFr rd = t'.readFr rd'

/-- `fe.neg` (rule R102): its two commands, one after the other, leave −x in the destination; the
third register must differ from the source. -/
def Obligations.NegPseudoNegates : Prop :=
  ∀ (rd rs1 rt : Reg) (s : State), (Pseudo.neg rd rs1 rt).wf = true → WR (s.readFr rs1) →
    ∃ i j t u, Pseudo.expand (.neg rd rs1 rt) = [i, j] ∧ exec i s = .next t ∧ exec j t = .next u ∧
      (val (u.readFr rd) + val (s.readFr rs1)) % Config.P = 0

/-! ## The host's accesses -/

/-- Which accesses get the bus's ERROR response: any of another width than 32 bits, misaligned, at an
unmapped offset or outside the window, and no others (rules R61, R64 to R66, R270). -/
def Obligations.BusErrorExactly : Prop :=
  (∀ (k : AccessKind) (w : AccessWidth) (off : Nat) (s : State),
    (hostAccess ⟨k, w, Config.feuBase + off⟩ s = .fault .busError ↔
      w ≠ .w32 ∨ off % 4 ≠ 0 ∨ (0x10 ≤ off ∧ off ≤ 0x3F) ∨ 0x78 ≤ off) ∧
    (¬ (w ≠ .w32 ∨ off % 4 ≠ 0 ∨ (0x10 ≤ off ∧ off ≤ 0x3F) ∨ 0x78 ≤ off) →
      ∃ t, hostAccess ⟨k, w, Config.feuBase + off⟩ s = .next t)) ∧
  (∀ (k : AccessKind) (w : AccessWidth) (addr : Nat) (s : State),
    (∀ off, off < 0x80 → addr ≠ Config.feuBase + off) → hostAccess ⟨k, w, addr⟩ s = .fault .busError)

/-- Reads of the control registers return what rules R28, R29, R31 and R33 say, bit by bit, and change
nothing of the unit (rule R69). -/
def Obligations.ControlReadsReturnTheRegisters : Prop :=
  ∀ s : State,
    (∃ t, hostAccess (memRead 0x00) s = .next t ∧ SameUnit s t ∧ t.response = some (.okayData s.cmd)) ∧
    (∃ t w, hostAccess (memRead 0x04) s = .next t ∧ SameUnit s t ∧ t.response = some (.okayData w) ∧
      w[0] = s.status.busy ∧ w[1] = s.status.done ∧ w[2] = s.status.err ∧
      w[3] = false ∧ w.extractLsb' 4 4 = errBits s.status.errcode ∧
      w[8] = s.status.noncanon ∧ w >>> 9 = 0#32) ∧
    (∃ t w, hostAccess (memRead 0x08) s = .next t ∧ SameUnit s t ∧ t.response = some (.okayData w) ∧
      w[0] = s.ctrl.ieDone ∧ w[1] = s.ctrl.ieErr ∧ w >>> 2 = 0#32) ∧
    (∃ t, hostAccess (memRead 0x0C) s = .next t ∧ SameUnit s t ∧
      t.response = some (.okayData 0x04480100#32))

/-- Rule R74: what a CMD write does in an idle and in a busy unit, and what the completion step does (the
log of errors is the model's own, log 6). -/
def Obligations.CommandLifeCycle : Prop :=
  ∀ (v : Word) (s : State),
    (s.status.busy = false → check v = .none →
      ∃ t, hostAccess (memWrite 0x00 v) s = .next t ∧ t.pend = some v ∧ t.cmd = v ∧
        t.status = { s.status with busy := true, done := false } ∧
        (∀ r, t.readFr r = s.readFr r) ∧ t.iobuf = s.iobuf ∧ t.ctrl = s.ctrl ∧
        t.errorLog = s.errorLog) ∧
    (s.status.busy = false → check v ≠ .none →
      ∃ t, hostAccess (memWrite 0x00 v) s = .next t ∧ t.pend = s.pend ∧ t.cmd = v ∧
        t.status.busy = false ∧ t.status.done = false ∧ t.status.err = true ∧
        t.errorLog = check v :: s.errorLog) ∧
    (s.status.busy = true →
      ∃ t, hostAccess (memWrite 0x00 v) s = .next t ∧ t.pend = s.pend ∧ t.cmd = s.cmd ∧
        t.errorLog = .busyWrite :: s.errorLog) ∧
    (s.pend = none → unitStep s = .next s) ∧
    (∀ w i, s.pend = some w → decode w = .ok i → unitStep s = exec i s ∧
      ∃ t, unitStep s = .next t ∧ t.pend = none ∧ t.status.busy = false ∧ t.status.done = true)

/-- Rule R260: a rejected word sets ERR, keeps the first code, is sampled and clears DONE, never enters
PEND, changes nothing else, and the unit goes on accepting commands; a dropped write changes only ERR
and ERRCODE. -/
def Obligations.RejectionRecordsAndChangesNothingElse : Prop :=
  ∀ (v : Word) (s : State),
    (s.status.busy = false → check v ≠ .none →
      let t := writeCmd v s
      t.status = { s.status with done := false, err := true,
                                 errcode := if s.status.err then s.status.errcode else check v } ∧
      t.cmd = v ∧ t.pend = s.pend ∧ (∀ r, t.readFr r = s.readFr r) ∧ t.iobuf = s.iobuf ∧
      t.ctrl = s.ctrl ∧
      ∀ w, check w = .none → (writeCmd w t).pend = some w ∧ (writeCmd w t).status.busy = true) ∧
    (s.status.busy = true →
      ∀ t, t = writeCmd v s ∨ (∃ j, t = writeIobuf j v s) →
        t.status = { s.status with err := true,
                                   errcode := if s.status.err then s.status.errcode else .busyWrite } ∧
        t.cmd = s.cmd ∧ t.pend = s.pend ∧ (∀ r, t.readFr r = s.readFr r) ∧ t.iobuf = s.iobuf ∧
        t.ctrl = s.ctrl)

/-- Rule R265: a write to CMD or IOBUF while BUSY = 1 is dropped with BUSY_WRITE and an OKAY response,
and the command in flight is still the next the unit performs; writes to STATUS and CTRL are honoured
and raise nothing. -/
def Obligations.WritesWhileBusyAreDropped : Prop :=
  ∀ (off : Nat) (v : Word) (s : State), s.status.busy = true →
    (off = 0x00 ∨ (0x40 ≤ off ∧ off ≤ 0x74 ∧ off % 4 = 0) →
      ∃ t, hostAccess (memWrite off v) s = .next t ∧ t.response = some .okay ∧ t.status.err = true ∧
        t.status.errcode = (if s.status.err then s.status.errcode else .busyWrite) ∧
        t.cmd = s.cmd ∧ t.pend = s.pend ∧ t.iobuf = s.iobuf ∧ (∀ r, t.readFr r = s.readFr r) ∧
        t.status.done = s.status.done ∧ t.status.busy = true ∧
        ∀ w i, s.pend = some w → decode w = .ok i → unitStep t = exec i t) ∧
    (∃ t, hostAccess (memWrite 0x04 v) s = .next t ∧ t.status = statusW1C v s.status ∧
      t.pend = s.pend) ∧
    (∃ t, hostAccess (memWrite 0x08 v) s = .next t ∧
      (v[31] = false → t.ctrl = ⟨v[0], v[1]⟩ ∧ t.status = s.status ∧ t.pend = s.pend) ∧
      (v[31] = true → AllReset t))

/-- The host's writes of STATUS, CTRL and ID: STATUS clears DONE for bit 1 and ERR with ERRCODE for
bit 2 and nothing else; CTRL without SRST sets the two enables and nothing else; ID ignores it (rules
R29, R31, R33, R67). -/
def Obligations.ControlWritesTouchOnlyTheirBits : Prop :=
  ∀ (v : Word) (s : State),
    (∃ t, hostAccess (memWrite 0x04 v) s = .next t ∧ t.response = some .okay ∧
      t.status.busy = s.status.busy ∧ t.status.noncanon = s.status.noncanon ∧
      t.status.done = (if v[1] then false else s.status.done) ∧
      t.status.err = (if v[2] then false else s.status.err) ∧
      t.status.errcode = (if v[2] then .none else s.status.errcode) ∧
      SameUnit s { t with status := s.status }) ∧
    (v[31] = false → ∃ t, hostAccess (memWrite 0x08 v) s = .next t ∧
      t.response = some .okay ∧ t.ctrl.ieDone = v[0] ∧ t.ctrl.ieErr = v[1] ∧
      SameUnit s { t with ctrl := s.ctrl }) ∧
    (∃ t, hostAccess (memWrite 0x0C v) s = .next t ∧ t.response = some .okay ∧ SameUnit s t)

/-- Rule R63: the packing of IOBUF's words, both ways: a write in an idle unit sets the four bytes and
leaves every other, a read returns the four bytes and changes nothing of the unit (rule R69), and the 448-bit integer is the sum of the words. -/
def Obligations.IobufWordsAreLittleEndian : Prop :=
  ∀ (j : Fin 14) (v : Word) (s : State), s.iobuf.wf = true →
    (s.status.busy = false → ∃ t, hostAccess (memWrite (0x40 + 4 * j.val) v) s = .next t ∧
      t.iobuf.read (4 * j.val) = v.extractLsb' 0 8 ∧
      t.iobuf.read (4 * j.val + 1) = v.extractLsb' 8 8 ∧
      t.iobuf.read (4 * j.val + 2) = v.extractLsb' 16 8 ∧
      t.iobuf.read (4 * j.val + 3) = v.extractLsb' 24 8 ∧
      (∀ a, a < 4 * j.val ∨ 4 * j.val + 4 ≤ a → t.iobuf.read a = s.iobuf.read a) ∧
      t.iobuf.wf = true ∧ SameUnit s { t with iobuf := s.iobuf }) ∧
    (s.status.busy = false → ∃ t w, hostAccess (memRead (0x40 + 4 * j.val)) s = .next t ∧
      SameUnit s t ∧ t.response = some (.okayData w) ∧
      w.toNat = (s.iobuf.read (4 * j.val)).toNat + (s.iobuf.read (4 * j.val + 1)).toNat * 2 ^ 8 +
        (s.iobuf.read (4 * j.val + 2)).toNat * 2 ^ 16 +
        (s.iobuf.read (4 * j.val + 3)).toNat * 2 ^ 24) ∧
    bytesVal (readBytes s.iobuf) = ∑ i : Fin 14, (readWord s.iobuf i).toNat * 2 ^ (32 * i.val)

/-- While FE.FROMBYTES or FE.TOBYTES is in flight a read of IOBUF returns a word under no law
(the free word of log 3) and changes nothing of the unit; while any other command is in flight it
returns the current contents (rule R76). -/
def Obligations.IobufReadDuringCodecIsFree : Prop :=
  ∀ (j : Fin 14) (v : Word) (s : State), s.status.busy = true → s.pend = some v →
    (opField v = 0x30#8 ∨ opField v = 0x31#8 →
      ∃ t, hostAccess (memRead (0x40 + 4 * j.val)) s = .next t ∧ SameUnit s t ∧
        t.response = some (.okayData (Config.freeWord s.draws)) ∧ t.draws = s.draws + 1) ∧
    (opField v ≠ 0x30#8 → opField v ≠ 0x31#8 →
      ∃ t, hostAccess (memRead (0x40 + 4 * j.val)) s = .next t ∧ SameUnit s t ∧
        t.response = some (.okayData (readWord s.iobuf j)) ∧ t.draws = s.draws)

/-! ## Reset -/

/-- A soft reset, and the falling edge of `rst_n`, in any state, a command in flight or not: every
piece of the unit's state takes its reset value, DONE is not set, `irq` is 0, and the other bits of
the CTRL word are discarded (rules R24, R27 to R31, R34, R301, R302). -/
def Obligations.ResetClearsEverything : Prop :=
  (∀ (v : Word) (s : State), v[31] = true →
    ∃ t, hostAccess (memWrite 0x08 v) s = .next t ∧ AllReset t ∧ irq t = false ∧
      t.response = some .okay ∧ t.rstN = s.rstN ∧ t.agenda = s.agenda) ∧
  (∀ s : State, ∃ t, doMove .rstLow s = .next t ∧ AllReset t ∧ irq t = false ∧ t.rstN = false)

/-- While `rst_n` is low no access is answered and nothing moves until it is high again (rules R300,
R301, R303); that an access made meanwhile is lost is the model's choice, log 8. -/
def Obligations.NothingMovesInReset : Prop :=
  ∀ (s : State) (m : Move) (rest : List Move), s.Inv → s.rstN = false → s.agenda = m :: rest →
    ∃ t, step s = .next t ∧ AllReset t ∧ (m ≠ .rstHigh → t.rstN = false) ∧
      (m = .rstHigh → t.rstN = true) ∧ (∀ a, m = .host a → t.response = none)

/-! ## Whole-machine rules -/

/-- The machine's invariant holds at reset, and so does the clean-entry state (rules R23, R24, R34,
R301, R305). -/
def Obligations.ResetMeetsTheInvariant : Prop := State.reset.Inv ∧ State.reset.CleanEntry

/-- Every step of either agent, and every edge of the reset pin, keeps the invariant: every register
WR, IOBUF canonical, BUSY equal to PEND's being full, the command in flight checked and held by CMD
with DONE 0, ERRCODE 0 exactly without ERR, ERR 0 while no error was logged (log 6), and all at reset
while `rst_n` is low (rules R22, R23, R28, R29, R34, R301). -/
def Obligations.StepKeepsTheInvariant : Prop :=
  ∀ s t : State, s.Inv → step s = .next t → t.Inv

/-- Under the invariant a step never refuses, and it faults only on a host access that gets the bus's
ERROR response (rules R270, R272). -/
def Obligations.OnlyBusErrorsStop : Prop :=
  ∀ s : State, s.Inv →
    (∀ r, step s ≠ .refused r) ∧
    (∀ f, step s = .fault f → f = .busError ∧
      ∃ a rest, s.agenda = .host a :: rest ∧ accessReg a = none)

/-- Rule R21: a host access never writes a register, unless it is the soft reset, which zeroes all. -/
def Obligations.HostNeverWritesRegisters : Prop :=
  ∀ (s t : State) (a : Access) (rest : List Move), s.agenda = .host a :: rest → step s = .next t →
    (∀ r, t.readFr r = s.readFr r) ∨
    (accessReg a = some .ctrl ∧ (∃ v, a.kind = .write v ∧ v[31] = true) ∧
      ∀ (r : Reg) (k : Fin 16), (t.readFr r).lane k = 0#32)

/-- Rule R30: a step changes NONCANON only by completing FE.FROMBYTES, which sets it to the result of
the range check, or by a reset, which clears it. -/
def Obligations.OnlyFrombytesWritesNoncanon : Prop :=
  ∀ s t : State, step s = .next t → t.status.noncanon ≠ s.status.noncanon →
    (∃ v rd, s.pend = some v ∧ decode v = .ok (.frombytes rd) ∧
      (t.status.noncanon = true ↔ Config.P ≤ bytesVal (readBytes s.iobuf))) ∨
    (t.status.noncanon = false ∧ AllReset t)

/-- Rule R268: while ERR = 1 a step keeps ERR and ERRCODE, whatever further error it raises and
whatever command it accepts or completes, unless it is a host write of STATUS with bit 2 set, or a
reset; and these clear both. -/
def Obligations.FirstErrorIsSticky : Prop :=
  (∀ s t : State, s.status.err = true → step s = .next t →
    (t.status.err = true ∧ t.status.errcode = s.status.errcode) ∨
    (t.status.err = false ∧ t.status.errcode = .none ∧
      ((∃ a rest v, s.agenda = .host a :: rest ∧ accessReg a = some .status ∧ a.kind = .write v ∧
          v[2] = true) ∨ AllReset t))) ∧
  (∀ (v : Word) (s : State), v[2] = true → ∃ t, hostAccess (memWrite 0x04 v) s = .next t ∧
    t.status.err = false ∧ t.status.errcode = .none) ∧
  (∀ (v : Word) (s : State), v[31] = true → ∃ t, hostAccess (memWrite 0x08 v) s = .next t ∧
    t.status.err = false ∧ t.status.errcode = .none) ∧
  (∀ s : State, ∃ t, doMove .rstLow s = .next t ∧ t.status.err = false ∧ t.status.errcode = .none)

/-- The interrupt line after a completion and after an error (rules R273, R274): the level follows
STATUS and the enables, and clearing the sources lowers it.
FE.MULW with multiplier 0 is among the instructions by the model's choice, log 16. -/
def Obligations.IrqFollowsDoneAndErr : Prop :=
  (∀ (i : Instr) (s t : State), exec i s = .next t →
    irq t = (s.ctrl.ieDone || (s.status.err && s.ctrl.ieErr))) ∧
  (∀ (v : Word) (s t : State), s.status.busy = false → check v ≠ .none →
    hostAccess (memWrite 0x00 v) s = .next t → irq t = s.ctrl.ieErr) ∧
  (∀ (s t : State), hostAccess (memWrite 0x04 0x00000006#32) s = .next t → irq t = false) ∧
  (∀ (s t : State), hostAccess (memWrite 0x08 0x00000000#32) s = .next t → irq t = false)

/-- An accepted command completes: whatever orderly moves are still to come (no reset, no bus error),
after at most as many of them as there are the unit's step performs it, and BUSY is 0 and DONE 1
(rules R310, R315, R320; the agenda is finite, log 2). -/
def Obligations.AcceptedCommandsComplete : Prop :=
  ∀ (s : State) (v : Word), s.Inv → s.rstN = true → s.pend = some v →
    (∀ m ∈ s.agenda, m.orderly = true) →
    ∃ (n : Nat) (t u : State), n ≤ s.agenda.length ∧ Sys2Proof.core.run n s = .next t ∧
      t.pend = some v ∧ step t = .next u ∧ u.pend = none ∧ u.status.busy = false ∧
      u.status.done = true

/-- A run of orderly moves ends: after its moves and one step more the host has made its last access and
nothing is in flight (rules R306, R320; the agenda is finite, log 2). -/
def Obligations.RunsEnd : Prop :=
  ∀ s : State, s.Inv → s.rstN = true → (∀ m ∈ s.agenda, m.orderly = true) →
    ∃ t, Sys2Proof.core.run (s.agenda.length + 1) s = .next t ∧ t.RunOver ∧ t.status.busy = false

/-- Rule R13: two states that differ only in the limbs of registers denoting the same field elements
step alike, to states that again differ only so: no sequence of host accesses tells them apart. -/
def Obligations.LimbsAreInvisibleToTheHost : Prop :=
  ∀ s t : State, s.Inv → t.Inv → SameToHost s t →
    (∀ s', step s = .next s' → ∃ t', step t = .next t' ∧ SameToHost s' t') ∧
    (∀ f, step s = .fault f → step t = .fault f) ∧
    (∀ r, step s = .refused r → step t = .refused r)

/-- Two commands of one opcode take the same time and do the same datapath work, whatever their
registers, multiplier, swap bit and constant; the time is at least one cycle; and the work of each
command is its row of rule R319's table, 457 and 460 evaluations of `mul_fn` for the inversion engine
(rules R8, R207, R318, R319). Latency and work are tables that no step reads, and they alone stand for
R318's fixed sequence: the model's choice, log 15.
FE.MULW with multiplier 0 is among the instructions by the model's choice, log 16. -/
def Obligations.TimeAndWorkFollowTheOpcode : Prop :=
  (∀ i j : Instr, i.opcode = j.opcode → latency i = latency j ∧ datapathWork i = datapathWork j) ∧
  (∀ i : Instr, 1 ≤ latency i) ∧
  (∀ (rd rs1 rs2 : Reg) (k : RomConst) (w : BitVec 16) (swap : Bool),
    datapathWork (.copy rd rs1) = ⟨0, 0, 0⟩ ∧ datapathWork (.ldc rd k) = ⟨0, 0, 0⟩ ∧
    datapathWork (.cswap rd rs1 swap) = ⟨0, 0, 0⟩ ∧ datapathWork (.frombytes rd) = ⟨0, 0, 0⟩ ∧
    datapathWork (.reduce rd rs1) = ⟨0, 1, 0⟩ ∧ datapathWork (.add rd rs1 rs2) = ⟨0, 1, 0⟩ ∧
    datapathWork (.sub rd rs1 rs2) = ⟨0, 1, 0⟩ ∧
    datapathWork (.canon rd rs1) = ⟨0, 0, 1⟩ ∧ datapathWork (.tobytes rs1) = ⟨0, 0, 1⟩ ∧
    datapathWork (.mul rd rs1 rs2) = ⟨1, 0, 0⟩ ∧ datapathWork (.sqr rd rs1) = ⟨1, 0, 0⟩ ∧
    datapathWork (.mulw rd rs1 w) = ⟨1, 0, 0⟩ ∧
    datapathWork (.isqrt rd rs1) = ⟨457, 0, 0⟩ ∧ datapathWork (.inv rd rs1) = ⟨460, 0, 0⟩)
end

