-- ==== Sys2Proof/Laws/Chain.lean ====
section
/-! SUPPORT. The addition chain over any multiplication: its result does not depend on what the chain
registers start with, and a value that is its own square is a fixed point of it. -/

namespace Sys2Proof.Machine

theorem squareTimes_succ {α : Type} (mul : α → α → α) (n : Nat) (c : α) :
    squareTimes mul (n + 1) c = squareTimes mul n (mul c c) := rfl

theorem squareTimes_fixed {α : Type} (mul : α → α → α) (e : α) (h : mul e e = e) :
    ∀ n, squareTimes mul n e = e
  | 0 => rfl
  | n + 1 => by rw [squareTimes_succ, h]; exact squareTimes_fixed mul e h n

/-- `R[a]` and `R[b]` are written before they are read (rule R201). -/
theorem isqrtChain_start {α : Type} (mul : α → α → α) (a0 b0 a1 b1 x : α) :
    isqrtChain mul a0 b0 x = isqrtChain mul a1 b1 x := by
  simp only [isqrtChain, chain, List.foldl_cons, List.foldl_nil, chainStage, chainRead]

theorem invChain_start {α : Type} (mul : α → α → α) (a0 b0 a1 b1 x : α) :
    invChain mul a0 b0 x = invChain mul a1 b1 x := by
  simp only [invChain, isqrtChain_start mul a0 b0 a1 b1]

theorem isqrtChain_fixed {α : Type} (mul : α → α → α) (a0 b0 e : α) (h : mul e e = e) :
    isqrtChain mul a0 b0 e = e := by
  simp only [isqrtChain, chain, List.foldl_cons, List.foldl_nil, chainStage, chainRead,
    squareTimes_fixed mul e h, h]

theorem invChain_fixed {α : Type} (mul : α → α → α) (a0 b0 e : α) (h : mul e e = e) :
    invChain mul a0 b0 e = e := by
  simp only [invChain, h, isqrtChain_fixed mul a0 b0 e h]

end Sys2Proof.Machine
end

