-- ==== Sys2Proof/Laws/Encoding.lean ====
section
/-! SUPPORT. A command word as a number, and the fields of a laid-out word: each field read back is the
field laid down. -/

namespace Sys2Proof

/-- The word of four fields as a number (rule R91). -/
theorem layout_toNat (hi : BitVec 16) (rs1 rd : BitVec 4) (op : BitVec 8) :
    (layout hi rs1 rd op).toNat =
      hi.toNat * 2 ^ 16 + rs1.toNat * 2 ^ 12 + rd.toNat * 2 ^ 8 + op.toNat := by
  have h2 := rs1.isLt
  have h3 := rd.isLt
  have h4 := op.isLt
  show BitVec.toNat (w := 16 + 4 + 4 + 8) (hi ++ rs1 ++ rd ++ op) = _
  simp only [BitVec.toNat_append]
  rw [← Nat.shiftLeft_add_eq_or_of_lt h4, ← Nat.shiftLeft_add_eq_or_of_lt h3,
    ← Nat.shiftLeft_add_eq_or_of_lt h2]
  simp only [Nat.shiftLeft_eq]
  omega

theorem opField_layout (hi : BitVec 16) (rs1 rd : BitVec 4) (op : BitVec 8) :
    opField (layout hi rs1 rd op) = op := by
  have h4 := op.isLt
  apply BitVec.eq_of_toNat_eq
  simp only [opField, BitVec.extractLsb'_toNat, layout_toNat, Nat.shiftRight_eq_div_pow]
  omega

theorem rdField_layout (hi : BitVec 16) (rs1 rd : BitVec 4) (op : BitVec 8) :
    rdField (layout hi rs1 rd op) = rd.toFin := by
  have h3 := rd.isLt
  have h4 := op.isLt
  apply Fin.ext
  simp only [rdField, regField, BitVec.val_toFin, BitVec.extractLsb'_toNat, layout_toNat,
    Nat.shiftRight_eq_div_pow]
  omega

theorem rs1Field_layout (hi : BitVec 16) (rs1 rd : BitVec 4) (op : BitVec 8) :
    rs1Field (layout hi rs1 rd op) = rs1.toFin := by
  have h2 := rs1.isLt
  have h3 := rd.isLt
  have h4 := op.isLt
  apply Fin.ext
  simp only [rs1Field, regField, BitVec.val_toFin, BitVec.extractLsb'_toNat, layout_toNat,
    Nat.shiftRight_eq_div_pow]
  omega

theorem immField_layout (hi : BitVec 16) (rs1 rd : BitVec 4) (op : BitVec 8) :
    immField (layout hi rs1 rd op) = hi := by
  have h1 := hi.isLt
  have h2 := rs1.isLt
  have h3 := rd.isLt
  have h4 := op.isLt
  apply BitVec.eq_of_toNat_eq
  simp only [immField, BitVec.extractLsb'_toNat, layout_toNat, Nat.shiftRight_eq_div_pow]
  omega

/-- A register number survives its field (rule R93). -/
theorem regBits_toFin (r : Reg) : (regBits r).toFin = r := by
  apply Fin.ext
  have := r.isLt
  simp only [regBits, BitVec.val_toFin, BitVec.toNat_ofNat]
  omega

end Sys2Proof
end

