-- ==== Sys2Proof/Laws/Vec16.lean ====
section
/-! SUPPORT. The small lemmas of sixteen-lane vectors: a lane of an update, a lane of a built vector,
equality lane by lane, and an induction over the sixteen passes of a loop. -/

namespace Sys2Proof

@[simp] theorem Vec16.lane_setLane_self {α : Type} (x : Vec16 α) (i : Fin 16) (v : α) :
    (x.setLane i v).lane i = v := by
  simp [Vec16.lane, Vec16.setLane]

theorem Vec16.lane_setLane_ne {α : Type} (x : Vec16 α) {i j : Fin 16} (v : α) (h : j ≠ i) :
    (x.setLane i v).lane j = x.lane j := by
  have : i.val ≠ j.val := fun e => h (Fin.ext e.symm)
  simp [Vec16.lane, Vec16.setLane, this]

theorem Vec16.lane_setLane {α : Type} (x : Vec16 α) (i j : Fin 16) (v : α) :
    (x.setLane i v).lane j = if j = i then v else x.lane j := by
  split
  · next h => subst h; simp
  · next h => exact x.lane_setLane_ne v h

@[simp] theorem Vec16.lane_build {α : Type} (f : Fin 16 → α) (i : Fin 16) :
    (Vec16.build f).lane i = f i := by
  simp [Vec16.lane, Vec16.build]

@[simp] theorem Vec16.lane_replicate {α : Type} (v : α) (i : Fin 16) :
    Vec16.lane (Vector.replicate 16 v) i = v := by
  simp [Vec16.lane]

theorem Vec16.ext_lane {α : Type} {x y : Vec16 α} (h : ∀ i, x.lane i = y.lane i) : x = y := by
  apply Vector.ext
  intro i hi
  exact h ⟨i, hi⟩

@[simp] theorem Vec16.setLane_lane_self {α : Type} (x : Vec16 α) (i : Fin 16) :
    x.setLane i (x.lane i) = x := by
  apply Vec16.ext_lane
  intro j
  rw [Vec16.lane_setLane]
  split
  · next h => rw [h]
  · rfl

theorem mem_lanes (i : Fin 16) : i ∈ lanes := by simp [lanes]

theorem lanes_nodup : lanes.Nodup := List.nodup_finRange 16

/-- A property of a loop's state that holds before it and that each pass keeps holds after it. -/
theorem foldl_keeps {α β : Type} (Q : β → Prop) (f : β → α → β) (hf : ∀ b a, Q b → Q (f b a)) :
    ∀ (l : List α) (b : β), Q b → Q (l.foldl f b)
  | [], _, h => h
  | a :: l, b, h => foldl_keeps Q f hf l (f b a) (hf b a h)

end Sys2Proof
end

