-- ==== Sys2Proof/Laws/Memory.lean ====
section
/-! SUPPORT. IOBUF as a memory: a read after a write (the byte written, every other byte left alone),
the canonical form that every operation keeps, and that equal contents are equal data. -/

namespace Sys2Proof.Machine

/-- A byte below the canonical form's start is unlisted. -/
theorem Memory.read_below (m : Memory) (lo x : Nat) (h : m.wfFrom lo = true) (hx : x < lo) :
    m.read x = unlistedByte := by
  induction m generalizing lo with
  | nil => rfl
  | cons d m ih =>
    obtain ⟨e, u⟩ := d
    simp only [Memory.wfFrom, Bool.and_eq_true, decide_eq_true_eq] at h
    simp only [Memory.read, if_neg (show x ≠ e by omega)]
    exact ih (e + 1) h.2 (by omega)

theorem Memory.read_write (m : Memory) (a b : Nat) (v : Byte) (lo : Nat) (h : m.wfFrom lo = true) :
    (m.write a v).read b = if b = a then v else m.read b := by
  induction m generalizing lo with
  | nil =>
    simp only [Memory.write, Memory.read]
    split <;> rename_i hv
    · subst hv; simp [Memory.read]
    · simp [Memory.read]
  | cons c m ih =>
    obtain ⟨k, w⟩ := c
    simp only [Memory.wfFrom, Bool.and_eq_true, decide_eq_true_eq] at h
    simp only [Memory.write]
    split
    · next hlt =>
      have hk : Memory.read ((k, w) :: m) a = unlistedByte := by
        have : a ≠ k := by omega
        simp only [Memory.read, if_neg this]
        exact Memory.read_below m (k + 1) a h.2 (by omega)
      split
      · next hv => subst hv; split <;> simp_all
      · simp only [Memory.read]
    · split
      · next hge heq =>
        subst heq
        have hk : Memory.read m a = unlistedByte := Memory.read_below m (a + 1) a h.2 (by omega)
        split
        · next hv =>
          subst hv
          by_cases hb : b = a
          · subst hb; simp [hk]
          · simp [Memory.read, hb]
        · by_cases hb : b = a
          · subst hb; simp [Memory.read]
          · simp [Memory.read, hb]
      · next hge hne =>
        have := ih (k + 1) h.2
        by_cases hb : b = k
        · subst hb
          have : b ≠ a := fun e => hne e.symm
          simp [Memory.read, this]
        · simp only [Memory.read, if_neg hb, this]

theorem Memory.wfFrom_write (m : Memory) (a : Nat) (v : Byte) (ha : a < 56) (lo : Nat) (hlo : lo ≤ a)
    (h : m.wfFrom lo = true) : (m.write a v).wfFrom lo = true := by
  induction m generalizing lo with
  | nil =>
    simp only [Memory.write]
    split <;> simp_all [Memory.wfFrom]
  | cons c m ih =>
    obtain ⟨k, w⟩ := c
    simp only [Memory.wfFrom, Bool.and_eq_true, decide_eq_true_eq, bne_iff_ne] at h
    obtain ⟨⟨⟨h1, h2⟩, h3⟩, h4⟩ := h
    have weaken : ∀ (m : Memory) (l l' : Nat), l' ≤ l → m.wfFrom l = true → m.wfFrom l' = true := by
      intro m
      cases m with
      | nil => intros; rfl
      | cons d m =>
        intro l l' hl hm
        obtain ⟨e, u⟩ := d
        simp only [Memory.wfFrom, Bool.and_eq_true, decide_eq_true_eq] at hm ⊢
        exact ⟨⟨⟨by omega, hm.1.1.2⟩, hm.1.2⟩, hm.2⟩
    simp only [Memory.write]
    split
    · next hlt =>
      split
      · simp [Memory.wfFrom, h1, h2, h3, h4]
      · next hv =>
        simp only [Memory.wfFrom, Bool.and_eq_true, decide_eq_true_eq, bne_iff_ne]
        exact ⟨⟨⟨hlo, ha⟩, hv⟩, ⟨⟨by omega, h2⟩, h3⟩, h4⟩
    · split
      · next hge heq =>
        subst heq
        split
        · exact weaken m (a + 1) lo (by omega) h4
        · next hv =>
          simp only [Memory.wfFrom, Bool.and_eq_true, decide_eq_true_eq, bne_iff_ne]
          exact ⟨⟨⟨hlo, ha⟩, hv⟩, h4⟩
      · next hge hne =>
        simp only [Memory.wfFrom, Bool.and_eq_true, decide_eq_true_eq, bne_iff_ne]
        exact ⟨⟨⟨h1, h2⟩, h3⟩, ih (k + 1) (by omega) h4⟩

theorem Memory.wf_write (m : Memory) (a : Nat) (v : Byte) (ha : a < 56) (h : m.wf = true) :
    (m.write a v).wf = true :=
  m.wfFrom_write a v ha 0 (Nat.zero_le a) h

theorem Memory.read_write_of_wf (m : Memory) (a b : Nat) (v : Byte) (h : m.wf = true) :
    (m.write a v).read b = if b = a then v else m.read b :=
  m.read_write a b v 0 h

theorem wordBase_lt (j : Fin 14) : wordBase j + 3 < 56 := by
  have := j.isLt
  simp only [wordBase]; omega

theorem wf_writeWord (m : Memory) (j : Fin 14) (v : Word) (h : m.wf = true) :
    (writeWord m j v).wf = true := by
  have hj := wordBase_lt j
  exact Memory.wf_write _ _ _ hj (Memory.wf_write _ _ _ (by omega)
    (Memory.wf_write _ _ _ (by omega) (Memory.wf_write _ _ _ (by omega) h)))

/-- What each byte reads as after a host word write: its four bytes those of `v`, every other byte as
before. -/
theorem read_writeWord (m : Memory) (j : Fin 14) (v : Word) (a : Nat) (h : m.wf = true) :
    (writeWord m j v).read a =
      if a = wordBase j + 3 then v.extractLsb' 24 8
      else if a = wordBase j + 2 then v.extractLsb' 16 8
      else if a = wordBase j + 1 then v.extractLsb' 8 8
      else if a = wordBase j then v.extractLsb' 0 8
      else m.read a := by
  have hj := wordBase_lt j
  have w0 := Memory.wf_write m (wordBase j) (v.extractLsb' 0 8) (by omega) h
  have w1 := Memory.wf_write _ (wordBase j + 1) (v.extractLsb' 8 8) (by omega) w0
  have w2 := Memory.wf_write _ (wordBase j + 2) (v.extractLsb' 16 8) (by omega) w1
  simp only [writeWord]
  rw [Memory.read_write_of_wf _ _ _ _ w2, Memory.read_write_of_wf _ _ _ _ w1,
    Memory.read_write_of_wf _ _ _ _ w0, Memory.read_write_of_wf _ _ _ _ h]

theorem wf_writeBytes (m : Memory) (b : Bytes) (h : m.wf = true) : (writeBytes m b).wf = true :=
  foldl_keeps (fun m : Memory => m.wf = true) _
    (fun m i hm => Memory.wf_write m i.val _ i.isLt hm) (List.finRange 56) m h

/-- What each byte reads as after all 56 are written. -/
theorem read_writeBytes (m : Memory) (b : Bytes) (i : Fin 56) (h : m.wf = true) :
    (writeBytes m b).read i.val = b[i] := by
  have go : ∀ (l : List (Fin 56)) (m : Memory), m.wf = true →
      (l.foldl (fun m (i : Fin 56) => m.write i.val b[i]) m).wf = true ∧
      (i ∈ l ∨ m.read i.val = b[i] →
        (l.foldl (fun m (i : Fin 56) => m.write i.val b[i]) m).read i.val = b[i]) := by
    intro l
    induction l with
    | nil => intro m hm; exact ⟨hm, fun h => by simpa using h⟩
    | cons k l ih =>
      intro m hm
      have hw := Memory.wf_write m k.val b[k] k.isLt hm
      refine ⟨(ih _ hw).1, fun hk => (ih _ hw).2 ?_⟩
      rw [Memory.read_write_of_wf _ _ _ _ hm]
      by_cases e : i = k
      · subst e; right; simp
      · have : i.val ≠ k.val := fun c => e (Fin.ext c)
        simp only [List.mem_cons, e, false_or] at hk
        simpa [this] using hk
  exact (go (List.finRange 56) m h).2 (Or.inl (List.mem_finRange i))

theorem readBytes_writeBytes (m : Memory) (b : Bytes) (h : m.wf = true) :
    readBytes (writeBytes m b) = b := by
  apply Vector.ext
  intro i hi
  simpa [readBytes] using read_writeBytes m b ⟨i, hi⟩ h

theorem reset_iobuf_wf : State.reset.iobuf.wf = true := rfl

/-- Equal contents are equal data. -/
theorem Memory.ext_of_wfFrom (m n : Memory) (lo : Nat) (hm : m.wfFrom lo = true)
    (hn : n.wfFrom lo = true) (h : ∀ a, m.read a = n.read a) : m = n := by
  induction m generalizing n lo with
  | nil =>
    cases n with
    | nil => rfl
    | cons d n =>
      obtain ⟨e, u⟩ := d
      simp only [Memory.wfFrom, Bool.and_eq_true, bne_iff_ne] at hn
      have := h e
      simp only [Memory.read, if_true] at this
      exact absurd this.symm hn.1.2
  | cons c m ih =>
    obtain ⟨k, w⟩ := c
    cases n with
    | nil =>
      simp only [Memory.wfFrom, Bool.and_eq_true, bne_iff_ne] at hm
      have := h k
      simp only [Memory.read, if_true] at this
      exact absurd this hm.1.2
    | cons d n =>
      obtain ⟨e, u⟩ := d
      simp only [Memory.wfFrom, Bool.and_eq_true, decide_eq_true_eq, bne_iff_ne] at hm hn
      have hke : k = e := by
        rcases Nat.lt_trichotomy k e with hlt | heq | hgt
        · have := h k
          simp only [Memory.read, if_true, if_neg (show k ≠ e by omega)] at this
          exact absurd (this.trans (Memory.read_below n (e + 1) k hn.2 (by omega))) hm.1.2
        · exact heq
        · have := h e
          simp only [Memory.read, if_true, if_neg (show e ≠ k by omega)] at this
          exact absurd (this.symm.trans (Memory.read_below m (k + 1) e hm.2 (by omega))) hn.1.2
      subst hke
      have hw : w = u := by simpa [Memory.read] using h k
      subst hw
      have := ih n (k + 1) hm.2 hn.2 (fun a => by
        by_cases ha : a = k
        · subst ha; rw [Memory.read_below m (a + 1) a hm.2 (by omega), Memory.read_below n (a + 1) a hn.2 (by omega)]
        · simpa [Memory.read, ha] using h a)
      rw [this]

end Sys2Proof.Machine
end

