-- ==== Sys2Proof/Laws/State.lean ====
section
/-! SUPPORT. What every update of the state does to every field: one lemma a field, true by definition.
A later proof cites these and unfolds no record update. Each is `by rfl` and not
`rfl`, so that `simp` rewrites with it and leaves the kernel nothing to compare by unfolding: the new
register or buffer contents can be large terms. -/

namespace Sys2Proof.Machine

/-! ## State.writeFr -/

@[simp] theorem State.writeFr_fr (s : State) (r : Reg) (x : FE) :
    (s.writeFr r x).fr = s.fr.setLane r x := by rfl
@[simp] theorem State.writeFr_iobuf (s : State) (r : Reg) (x : FE) :
    (s.writeFr r x).iobuf = s.iobuf := by rfl
@[simp] theorem State.writeFr_cmd (s : State) (r : Reg) (x : FE) :
    (s.writeFr r x).cmd = s.cmd := by rfl
@[simp] theorem State.writeFr_status (s : State) (r : Reg) (x : FE) :
    (s.writeFr r x).status = s.status := by rfl
@[simp] theorem State.writeFr_ctrl (s : State) (r : Reg) (x : FE) :
    (s.writeFr r x).ctrl = s.ctrl := by rfl
@[simp] theorem State.writeFr_pend (s : State) (r : Reg) (x : FE) :
    (s.writeFr r x).pend = s.pend := by rfl
@[simp] theorem State.writeFr_rstN (s : State) (r : Reg) (x : FE) :
    (s.writeFr r x).rstN = s.rstN := by rfl
@[simp] theorem State.writeFr_response (s : State) (r : Reg) (x : FE) :
    (s.writeFr r x).response = s.response := by rfl
@[simp] theorem State.writeFr_agenda (s : State) (r : Reg) (x : FE) :
    (s.writeFr r x).agenda = s.agenda := by rfl
@[simp] theorem State.writeFr_draws (s : State) (r : Reg) (x : FE) :
    (s.writeFr r x).draws = s.draws := by rfl
@[simp] theorem State.writeFr_errorLog (s : State) (r : Reg) (x : FE) :
    (s.writeFr r x).errorLog = s.errorLog := by rfl

/-! ## State.mapStatus -/

@[simp] theorem State.mapStatus_fr (s : State) (f : Status → Status) :
    (s.mapStatus f).fr = s.fr := by rfl
@[simp] theorem State.mapStatus_iobuf (s : State) (f : Status → Status) :
    (s.mapStatus f).iobuf = s.iobuf := by rfl
@[simp] theorem State.mapStatus_cmd (s : State) (f : Status → Status) :
    (s.mapStatus f).cmd = s.cmd := by rfl
@[simp] theorem State.mapStatus_status (s : State) (f : Status → Status) :
    (s.mapStatus f).status = f s.status := by rfl
@[simp] theorem State.mapStatus_ctrl (s : State) (f : Status → Status) :
    (s.mapStatus f).ctrl = s.ctrl := by rfl
@[simp] theorem State.mapStatus_pend (s : State) (f : Status → Status) :
    (s.mapStatus f).pend = s.pend := by rfl
@[simp] theorem State.mapStatus_rstN (s : State) (f : Status → Status) :
    (s.mapStatus f).rstN = s.rstN := by rfl
@[simp] theorem State.mapStatus_response (s : State) (f : Status → Status) :
    (s.mapStatus f).response = s.response := by rfl
@[simp] theorem State.mapStatus_agenda (s : State) (f : Status → Status) :
    (s.mapStatus f).agenda = s.agenda := by rfl
@[simp] theorem State.mapStatus_draws (s : State) (f : Status → Status) :
    (s.mapStatus f).draws = s.draws := by rfl
@[simp] theorem State.mapStatus_errorLog (s : State) (f : Status → Status) :
    (s.mapStatus f).errorLog = s.errorLog := by rfl

/-! ## State.setIobuf -/

@[simp] theorem State.setIobuf_fr (s : State) (m : Memory) :
    (s.setIobuf m).fr = s.fr := by rfl
@[simp] theorem State.setIobuf_iobuf (s : State) (m : Memory) :
    (s.setIobuf m).iobuf = m := by rfl
@[simp] theorem State.setIobuf_cmd (s : State) (m : Memory) :
    (s.setIobuf m).cmd = s.cmd := by rfl
@[simp] theorem State.setIobuf_status (s : State) (m : Memory) :
    (s.setIobuf m).status = s.status := by rfl
@[simp] theorem State.setIobuf_ctrl (s : State) (m : Memory) :
    (s.setIobuf m).ctrl = s.ctrl := by rfl
@[simp] theorem State.setIobuf_pend (s : State) (m : Memory) :
    (s.setIobuf m).pend = s.pend := by rfl
@[simp] theorem State.setIobuf_rstN (s : State) (m : Memory) :
    (s.setIobuf m).rstN = s.rstN := by rfl
@[simp] theorem State.setIobuf_response (s : State) (m : Memory) :
    (s.setIobuf m).response = s.response := by rfl
@[simp] theorem State.setIobuf_agenda (s : State) (m : Memory) :
    (s.setIobuf m).agenda = s.agenda := by rfl
@[simp] theorem State.setIobuf_draws (s : State) (m : Memory) :
    (s.setIobuf m).draws = s.draws := by rfl
@[simp] theorem State.setIobuf_errorLog (s : State) (m : Memory) :
    (s.setIobuf m).errorLog = s.errorLog := by rfl

/-! ## State.emptyPend -/

@[simp] theorem State.emptyPend_fr (s : State) :
    s.emptyPend.fr = s.fr := by rfl
@[simp] theorem State.emptyPend_iobuf (s : State) :
    s.emptyPend.iobuf = s.iobuf := by rfl
@[simp] theorem State.emptyPend_cmd (s : State) :
    s.emptyPend.cmd = s.cmd := by rfl
@[simp] theorem State.emptyPend_status (s : State) :
    s.emptyPend.status = s.status := by rfl
@[simp] theorem State.emptyPend_ctrl (s : State) :
    s.emptyPend.ctrl = s.ctrl := by rfl
@[simp] theorem State.emptyPend_pend (s : State) :
    s.emptyPend.pend = none := by rfl
@[simp] theorem State.emptyPend_rstN (s : State) :
    s.emptyPend.rstN = s.rstN := by rfl
@[simp] theorem State.emptyPend_response (s : State) :
    s.emptyPend.response = s.response := by rfl
@[simp] theorem State.emptyPend_agenda (s : State) :
    s.emptyPend.agenda = s.agenda := by rfl
@[simp] theorem State.emptyPend_draws (s : State) :
    s.emptyPend.draws = s.draws := by rfl
@[simp] theorem State.emptyPend_errorLog (s : State) :
    s.emptyPend.errorLog = s.errorLog := by rfl

/-! ## State.setAgenda -/

@[simp] theorem State.setAgenda_fr (s : State) (ms : List Move) :
    (s.setAgenda ms).fr = s.fr := by rfl
@[simp] theorem State.setAgenda_iobuf (s : State) (ms : List Move) :
    (s.setAgenda ms).iobuf = s.iobuf := by rfl
@[simp] theorem State.setAgenda_cmd (s : State) (ms : List Move) :
    (s.setAgenda ms).cmd = s.cmd := by rfl
@[simp] theorem State.setAgenda_status (s : State) (ms : List Move) :
    (s.setAgenda ms).status = s.status := by rfl
@[simp] theorem State.setAgenda_ctrl (s : State) (ms : List Move) :
    (s.setAgenda ms).ctrl = s.ctrl := by rfl
@[simp] theorem State.setAgenda_pend (s : State) (ms : List Move) :
    (s.setAgenda ms).pend = s.pend := by rfl
@[simp] theorem State.setAgenda_rstN (s : State) (ms : List Move) :
    (s.setAgenda ms).rstN = s.rstN := by rfl
@[simp] theorem State.setAgenda_response (s : State) (ms : List Move) :
    (s.setAgenda ms).response = s.response := by rfl
@[simp] theorem State.setAgenda_agenda (s : State) (ms : List Move) :
    (s.setAgenda ms).agenda = ms := by rfl
@[simp] theorem State.setAgenda_draws (s : State) (ms : List Move) :
    (s.setAgenda ms).draws = s.draws := by rfl
@[simp] theorem State.setAgenda_errorLog (s : State) (ms : List Move) :
    (s.setAgenda ms).errorLog = s.errorLog := by rfl

/-! ## raiseCmdError -/

@[simp] theorem raiseCmdError_fr (c : ErrCode) (s : State) :
    (raiseCmdError c s).fr = s.fr := by rfl
@[simp] theorem raiseCmdError_iobuf (c : ErrCode) (s : State) :
    (raiseCmdError c s).iobuf = s.iobuf := by rfl
@[simp] theorem raiseCmdError_cmd (c : ErrCode) (s : State) :
    (raiseCmdError c s).cmd = s.cmd := by rfl
@[simp] theorem raiseCmdError_status (c : ErrCode) (s : State) :
    (raiseCmdError c s).status = statusError c s.status := by rfl
@[simp] theorem raiseCmdError_ctrl (c : ErrCode) (s : State) :
    (raiseCmdError c s).ctrl = s.ctrl := by rfl
@[simp] theorem raiseCmdError_pend (c : ErrCode) (s : State) :
    (raiseCmdError c s).pend = s.pend := by rfl
@[simp] theorem raiseCmdError_rstN (c : ErrCode) (s : State) :
    (raiseCmdError c s).rstN = s.rstN := by rfl
@[simp] theorem raiseCmdError_response (c : ErrCode) (s : State) :
    (raiseCmdError c s).response = s.response := by rfl
@[simp] theorem raiseCmdError_agenda (c : ErrCode) (s : State) :
    (raiseCmdError c s).agenda = s.agenda := by rfl
@[simp] theorem raiseCmdError_draws (c : ErrCode) (s : State) :
    (raiseCmdError c s).draws = s.draws := by rfl
@[simp] theorem raiseCmdError_errorLog (c : ErrCode) (s : State) :
    (raiseCmdError c s).errorLog = c :: s.errorLog := by rfl

/-! ## applyReset -/

@[simp] theorem applyReset_fr (s : State) :
    (applyReset s).fr = State.reset.fr := by rfl
@[simp] theorem applyReset_iobuf (s : State) :
    (applyReset s).iobuf = [] := by rfl
@[simp] theorem applyReset_cmd (s : State) :
    (applyReset s).cmd = 0#32 := by rfl
@[simp] theorem applyReset_status (s : State) :
    (applyReset s).status = State.reset.status := by rfl
@[simp] theorem applyReset_ctrl (s : State) :
    (applyReset s).ctrl = State.reset.ctrl := by rfl
@[simp] theorem applyReset_pend (s : State) :
    (applyReset s).pend = none := by rfl
@[simp] theorem applyReset_rstN (s : State) :
    (applyReset s).rstN = s.rstN := by rfl
@[simp] theorem applyReset_response (s : State) :
    (applyReset s).response = s.response := by rfl
@[simp] theorem applyReset_agenda (s : State) :
    (applyReset s).agenda = s.agenda := by rfl
@[simp] theorem applyReset_draws (s : State) :
    (applyReset s).draws = s.draws := by rfl
@[simp] theorem applyReset_errorLog (s : State) :
    (applyReset s).errorLog = s.errorLog := by rfl

/-! ## answer -/

@[simp] theorem answer_fr (r : Response) (s : State) :
    (answer r s).fr = s.fr := by rfl
@[simp] theorem answer_iobuf (r : Response) (s : State) :
    (answer r s).iobuf = s.iobuf := by rfl
@[simp] theorem answer_cmd (r : Response) (s : State) :
    (answer r s).cmd = s.cmd := by rfl
@[simp] theorem answer_status (r : Response) (s : State) :
    (answer r s).status = s.status := by rfl
@[simp] theorem answer_ctrl (r : Response) (s : State) :
    (answer r s).ctrl = s.ctrl := by rfl
@[simp] theorem answer_pend (r : Response) (s : State) :
    (answer r s).pend = s.pend := by rfl
@[simp] theorem answer_rstN (r : Response) (s : State) :
    (answer r s).rstN = s.rstN := by rfl
@[simp] theorem answer_response (r : Response) (s : State) :
    (answer r s).response = some r := by rfl
@[simp] theorem answer_agenda (r : Response) (s : State) :
    (answer r s).agenda = s.agenda := by rfl
@[simp] theorem answer_draws (r : Response) (s : State) :
    (answer r s).draws = s.draws := by rfl
@[simp] theorem answer_errorLog (r : Response) (s : State) :
    (answer r s).errorLog = s.errorLog := by rfl

/-! ## sampleCommand -/

@[simp] theorem sampleCommand_fr (v : Word) (s : State) :
    (sampleCommand v s).fr = s.fr := by rfl
@[simp] theorem sampleCommand_iobuf (v : Word) (s : State) :
    (sampleCommand v s).iobuf = s.iobuf := by rfl
@[simp] theorem sampleCommand_cmd (v : Word) (s : State) :
    (sampleCommand v s).cmd = v := by rfl
@[simp] theorem sampleCommand_status (v : Word) (s : State) :
    (sampleCommand v s).status = statusSampled s.status := by rfl
@[simp] theorem sampleCommand_ctrl (v : Word) (s : State) :
    (sampleCommand v s).ctrl = s.ctrl := by rfl
@[simp] theorem sampleCommand_pend (v : Word) (s : State) :
    (sampleCommand v s).pend = s.pend := by rfl
@[simp] theorem sampleCommand_rstN (v : Word) (s : State) :
    (sampleCommand v s).rstN = s.rstN := by rfl
@[simp] theorem sampleCommand_response (v : Word) (s : State) :
    (sampleCommand v s).response = s.response := by rfl
@[simp] theorem sampleCommand_agenda (v : Word) (s : State) :
    (sampleCommand v s).agenda = s.agenda := by rfl
@[simp] theorem sampleCommand_draws (v : Word) (s : State) :
    (sampleCommand v s).draws = s.draws := by rfl
@[simp] theorem sampleCommand_errorLog (v : Word) (s : State) :
    (sampleCommand v s).errorLog = s.errorLog := by rfl

/-! ## acceptCommand -/

@[simp] theorem acceptCommand_fr (v : Word) (s : State) :
    (acceptCommand v s).fr = s.fr := by rfl
@[simp] theorem acceptCommand_iobuf (v : Word) (s : State) :
    (acceptCommand v s).iobuf = s.iobuf := by rfl
@[simp] theorem acceptCommand_cmd (v : Word) (s : State) :
    (acceptCommand v s).cmd = s.cmd := by rfl
@[simp] theorem acceptCommand_status (v : Word) (s : State) :
    (acceptCommand v s).status = statusAccepted s.status := by rfl
@[simp] theorem acceptCommand_ctrl (v : Word) (s : State) :
    (acceptCommand v s).ctrl = s.ctrl := by rfl
@[simp] theorem acceptCommand_pend (v : Word) (s : State) :
    (acceptCommand v s).pend = some v := by rfl
@[simp] theorem acceptCommand_rstN (v : Word) (s : State) :
    (acceptCommand v s).rstN = s.rstN := by rfl
@[simp] theorem acceptCommand_response (v : Word) (s : State) :
    (acceptCommand v s).response = s.response := by rfl
@[simp] theorem acceptCommand_agenda (v : Word) (s : State) :
    (acceptCommand v s).agenda = s.agenda := by rfl
@[simp] theorem acceptCommand_draws (v : Word) (s : State) :
    (acceptCommand v s).draws = s.draws := by rfl
@[simp] theorem acceptCommand_errorLog (v : Word) (s : State) :
    (acceptCommand v s).errorLog = s.errorLog := by rfl

/-! ## assertReset -/

@[simp] theorem assertReset_fr (s : State) :
    (assertReset s).fr = State.reset.fr := by rfl
@[simp] theorem assertReset_iobuf (s : State) :
    (assertReset s).iobuf = [] := by rfl
@[simp] theorem assertReset_cmd (s : State) :
    (assertReset s).cmd = 0#32 := by rfl
@[simp] theorem assertReset_status (s : State) :
    (assertReset s).status = State.reset.status := by rfl
@[simp] theorem assertReset_ctrl (s : State) :
    (assertReset s).ctrl = State.reset.ctrl := by rfl
@[simp] theorem assertReset_pend (s : State) :
    (assertReset s).pend = none := by rfl
@[simp] theorem assertReset_rstN (s : State) :
    (assertReset s).rstN = false := by rfl
@[simp] theorem assertReset_response (s : State) :
    (assertReset s).response = s.response := by rfl
@[simp] theorem assertReset_agenda (s : State) :
    (assertReset s).agenda = s.agenda := by rfl
@[simp] theorem assertReset_draws (s : State) :
    (assertReset s).draws = s.draws := by rfl
@[simp] theorem assertReset_errorLog (s : State) :
    (assertReset s).errorLog = s.errorLog := by rfl

/-! ## releaseReset -/

@[simp] theorem releaseReset_fr (s : State) :
    (releaseReset s).fr = s.fr := by rfl
@[simp] theorem releaseReset_iobuf (s : State) :
    (releaseReset s).iobuf = s.iobuf := by rfl
@[simp] theorem releaseReset_cmd (s : State) :
    (releaseReset s).cmd = s.cmd := by rfl
@[simp] theorem releaseReset_status (s : State) :
    (releaseReset s).status = s.status := by rfl
@[simp] theorem releaseReset_ctrl (s : State) :
    (releaseReset s).ctrl = s.ctrl := by rfl
@[simp] theorem releaseReset_pend (s : State) :
    (releaseReset s).pend = s.pend := by rfl
@[simp] theorem releaseReset_rstN (s : State) :
    (releaseReset s).rstN = true := by rfl
@[simp] theorem releaseReset_response (s : State) :
    (releaseReset s).response = s.response := by rfl
@[simp] theorem releaseReset_agenda (s : State) :
    (releaseReset s).agenda = s.agenda := by rfl
@[simp] theorem releaseReset_draws (s : State) :
    (releaseReset s).draws = s.draws := by rfl
@[simp] theorem releaseReset_errorLog (s : State) :
    (releaseReset s).errorLog = s.errorLog := by rfl

/-! ## unanswered -/

@[simp] theorem unanswered_fr (s : State) :
    (unanswered s).fr = s.fr := by rfl
@[simp] theorem unanswered_iobuf (s : State) :
    (unanswered s).iobuf = s.iobuf := by rfl
@[simp] theorem unanswered_cmd (s : State) :
    (unanswered s).cmd = s.cmd := by rfl
@[simp] theorem unanswered_status (s : State) :
    (unanswered s).status = s.status := by rfl
@[simp] theorem unanswered_ctrl (s : State) :
    (unanswered s).ctrl = s.ctrl := by rfl
@[simp] theorem unanswered_pend (s : State) :
    (unanswered s).pend = s.pend := by rfl
@[simp] theorem unanswered_rstN (s : State) :
    (unanswered s).rstN = s.rstN := by rfl
@[simp] theorem unanswered_response (s : State) :
    (unanswered s).response = none := by rfl
@[simp] theorem unanswered_agenda (s : State) :
    (unanswered s).agenda = s.agenda := by rfl
@[simp] theorem unanswered_draws (s : State) :
    (unanswered s).draws = s.draws := by rfl
@[simp] theorem unanswered_errorLog (s : State) :
    (unanswered s).errorLog = s.errorLog := by rfl

/-! ## placeCommand -/

@[simp] theorem placeCommand_fr (v : Word) (s : State) :
    (placeCommand v s).fr = s.fr := by rfl
@[simp] theorem placeCommand_iobuf (v : Word) (s : State) :
    (placeCommand v s).iobuf = s.iobuf := by rfl
@[simp] theorem placeCommand_cmd (v : Word) (s : State) :
    (placeCommand v s).cmd = v := by rfl
@[simp] theorem placeCommand_status (v : Word) (s : State) :
    (placeCommand v s).status = statusAccepted (statusSampled s.status) := by rfl
@[simp] theorem placeCommand_ctrl (v : Word) (s : State) :
    (placeCommand v s).ctrl = s.ctrl := by rfl
@[simp] theorem placeCommand_pend (v : Word) (s : State) :
    (placeCommand v s).pend = some v := by rfl
@[simp] theorem placeCommand_rstN (v : Word) (s : State) :
    (placeCommand v s).rstN = true := by rfl
@[simp] theorem placeCommand_response (v : Word) (s : State) :
    (placeCommand v s).response = s.response := by rfl
@[simp] theorem placeCommand_agenda (v : Word) (s : State) :
    (placeCommand v s).agenda = .complete :: s.agenda := by rfl
@[simp] theorem placeCommand_draws (v : Word) (s : State) :
    (placeCommand v s).draws = s.draws := by rfl
@[simp] theorem placeCommand_errorLog (v : Word) (s : State) :
    (placeCommand v s).errorLog = s.errorLog := by rfl

end Sys2Proof.Machine
end

