-- ==== Sys2Proof/Laws/Ops.lean ====
section
/-! SUPPORT. One lemma for each shared operation, saying all it can do: the FR file, a completion, the
decode of an access, a host access, one move and one step. Later proofs cite these. -/

namespace Sys2Proof.Machine

/-! ## The FR file -/

@[simp] theorem readFr_writeFr_self (s : State) (r : Reg) (x : FE) :
    (s.writeFr r x).readFr r = x := by
  simp [State.readFr]

theorem readFr_writeFr (s : State) (r q : Reg) (x : FE) :
    (s.writeFr r x).readFr q = if q = r then x else s.readFr q := by
  simp [State.readFr, Vec16.lane_setLane]

/-- Two states whose registers all read the same have the same FR file. -/
theorem fr_ext {s t : State} (h : ∀ r, s.readFr r = t.readFr r) : s.fr = t.fr :=
  Vec16.ext_lane h

@[simp] theorem readFr_mapStatus (s : State) (f : Status → Status) (r : Reg) :
    (s.mapStatus f).readFr r = s.readFr r := by rfl

@[simp] theorem readFr_setIobuf (s : State) (m : Memory) (r : Reg) :
    (s.setIobuf m).readFr r = s.readFr r := by rfl

@[simp] theorem readFr_emptyPend (s : State) (r : Reg) : s.emptyPend.readFr r = s.readFr r := by rfl

@[simp] theorem readFr_setAgenda (s : State) (ms : List Move) (r : Reg) :
    (s.setAgenda ms).readFr r = s.readFr r := by rfl

@[simp] theorem readFr_reset (r : Reg) : State.reset.readFr r = FE.allZero := by
  simp [State.readFr, State.reset]

@[simp] theorem readFr_applyReset (s : State) (r : Reg) : (applyReset s).readFr r = FE.allZero := by
  simp [State.readFr, State.reset]

@[simp] theorem lane_allZero (k : Fin 16) : FE.allZero.lane k = 0#32 := by
  simp [FE.allZero]

/-! ## A completion -/

/-- A completion answers a next state: PEND empty, BUSY 0, DONE 1, all else as it was. -/
theorem finish_next (s t : State) :
    finish s = .next t ↔ t = (s.mapStatus statusCompleted).emptyPend := by
  simp only [finish, Host.Outcome.next.injEq]
  exact eq_comm

/-- What a completion that writes one register does to everything. -/
theorem finishWrite_next {rd : Reg} {x : FE} {s t : State} (h : finishWrite rd x s = .next t) :
    (∀ r, t.readFr r = if r = rd then x else s.readFr r) ∧ t.iobuf = s.iobuf ∧ t.cmd = s.cmd ∧
    t.status = statusCompleted s.status ∧ t.ctrl = s.ctrl ∧ t.pend = none ∧ t.rstN = s.rstN ∧
    t.response = s.response ∧ t.agenda = s.agenda ∧ t.draws = s.draws ∧
    t.errorLog = s.errorLog := by
  rw [finishWrite, finish_next] at h
  subst h
  exact ⟨fun r => readFr_writeFr s rd r x, rfl, rfl, rfl, rfl, rfl, rfl, rfl, rfl, rfl, rfl⟩

theorem finishWrite_answers (rd : Reg) (x : FE) (s : State) :
    finishWrite rd x s = .next ((s.writeFr rd x).mapStatus statusCompleted).emptyPend := rfl

/-- A completion of a command that leaves CMD, ERR, ERRCODE, CTRL and the model's own fields alone. -/
theorem Completes.of_finish {s u : State} (cmd : u.cmd = s.cmd) (err : u.status.err = s.status.err)
    (errcode : u.status.errcode = s.status.errcode) (ctrl : u.ctrl = s.ctrl) (rstN : u.rstN = s.rstN)
    (response : u.response = s.response) (agenda : u.agenda = s.agenda) (draws : u.draws = s.draws)
    (errorLog : u.errorLog = s.errorLog) :
    Completes s (u.mapStatus statusCompleted).emptyPend :=
  ⟨rfl, rfl, rfl, err, errcode, cmd, ctrl, rstN, response, agenda, draws, errorLog⟩

/-- A completion that writes one register writes only that. -/
theorem WritesOnly.of_finishWrite (rd : Reg) (x : FE) (s : State) :
    WritesOnly rd s ((s.writeFr rd x).mapStatus statusCompleted).emptyPend where
  toCompletes := Completes.of_finish rfl rfl rfl rfl rfl rfl rfl rfl rfl
  otherRegs r hr := by simp [readFr_writeFr, hr]
  noncanon := rfl
  bytes _ := rfl

/-! ## Accesses -/

/-- An address in the window has the offset it was made from. -/
theorem windowOffset_base (off : Nat) (h : off < 0x80) :
    windowOffset (Config.feuBase + off) = some off := by
  simp only [windowOffset, Config.windowBytes]
  rw [if_pos ⟨by omega, by omega⟩]
  congr 1; omega

/-- An offset outside the window reaches nothing. -/
theorem windowOffset_outside (off : Nat) (h : 0x80 ≤ off) :
    windowOffset (Config.feuBase + off) = none := by
  simp only [windowOffset, Config.windowBytes]
  rw [if_neg (by omega)]

theorem accessReg_memRead (off : Nat) (h : off < 0x80) :
    accessReg (memRead off) = windowReg off := by
  simp [accessReg, memRead, windowOffset_base off h]

theorem accessReg_memWrite (off : Nat) (v : Word) (h : off < 0x80) :
    accessReg (memWrite off v) = windowReg off := by
  simp [accessReg, memWrite, windowOffset_base off h]

/-- The offset of IOBUF word `j` (rule R61). -/
theorem windowReg_iobuf (j : Fin 14) : windowReg (0x40 + 4 * j.val) = some (.iobuf j) := by
  have := j.isLt
  simp only [windowReg]
  rw [if_neg (by omega), if_neg (by omega), if_neg (by omega), if_neg (by omega),
    dif_pos ⟨by omega, by omega, by omega⟩]
  congr 3
  omega

/-- A host access faults, or reads, or writes. -/
theorem hostAccess_next {a : Access} {s t : State} (h : hostAccess a s = .next t) :
    ∃ r, accessReg a = some r ∧
      ((a.kind = .read ∧ t = hostRead r s) ∨ (∃ v, a.kind = .write v ∧ t = hostWrite r v s)) := by
  simp only [hostAccess] at h
  split at h
  · cases h
  · next r hr =>
    refine ⟨r, hr, ?_⟩
    split at h
    · next hk => left; exact ⟨hk, by simpa using h.symm⟩
    · next v hk => right; exact ⟨v, hk, by simpa using h.symm⟩

/-- An access that reaches a register is answered. -/
theorem hostAccess_answers {a : Access} {r : WindowReg} (h : accessReg a = some r) (s : State) :
    ∃ t, hostAccess a s = .next t := by
  simp only [hostAccess, h]
  cases a.kind with
  | read => exact ⟨_, rfl⟩
  | write v => exact ⟨_, rfl⟩

/-- What a host read does to everything but the answer and the count of draws. -/
theorem hostRead_frame (r : WindowReg) (s : State) :
    (hostRead r s).fr = s.fr ∧ (hostRead r s).iobuf = s.iobuf ∧ (hostRead r s).cmd = s.cmd ∧
    (hostRead r s).status = s.status ∧ (hostRead r s).ctrl = s.ctrl ∧
    (hostRead r s).pend = s.pend ∧ (hostRead r s).rstN = s.rstN ∧
    (hostRead r s).agenda = s.agenda ∧ (hostRead r s).errorLog = s.errorLog := by
  cases r with
  | iobuf j =>
    simp only [hostRead, readIobuf]
    split <;> exact ⟨rfl, rfl, rfl, rfl, rfl, rfl, rfl, rfl, rfl⟩
  | cmd => exact ⟨rfl, rfl, rfl, rfl, rfl, rfl, rfl, rfl, rfl⟩
  | status => exact ⟨rfl, rfl, rfl, rfl, rfl, rfl, rfl, rfl, rfl⟩
  | ctrl => exact ⟨rfl, rfl, rfl, rfl, rfl, rfl, rfl, rfl, rfl⟩
  | id => exact ⟨rfl, rfl, rfl, rfl, rfl, rfl, rfl, rfl, rfl⟩

/-- A host read leaves the unit as it was (rule R69). -/
theorem hostRead_sameUnit (r : WindowReg) (s : State) : SameUnit s (hostRead r s) := by
  obtain ⟨h1, h2, h3, h4, h5, h6, -⟩ := hostRead_frame r s
  exact ⟨fun q => by simp [State.readFr, h1], fun a => by rw [h2], h3, h4, h5, h6⟩

/-- `MemRead(off, 4)` at a mapped offset. -/
theorem hostAccess_memRead {off : Nat} {r : WindowReg} (h : off < 0x80) (hr : windowReg off = some r)
    (s : State) : hostAccess (memRead off) s = .next (hostRead r s) := by
  simp only [hostAccess, accessReg_memRead off h, hr]
  rfl

/-- `MemWrite(off, 4, v)` at a mapped offset. -/
theorem hostAccess_memWrite {off : Nat} {r : WindowReg} (v : Word) (h : off < 0x80)
    (hr : windowReg off = some r) (s : State) :
    hostAccess (memWrite off v) s = .next (hostWrite r v s) := by
  simp only [hostAccess, accessReg_memWrite off v h, hr]
  rfl

/-- The three outcomes of a CMD write. -/
theorem writeCmd_cases (v : Word) (s : State) :
    (s.status.busy = true ∧ writeCmd v s = raiseCmdError .busyWrite s) ∨
    (s.status.busy = false ∧ check v = .none ∧ writeCmd v s = acceptCommand v (sampleCommand v s)) ∨
    (s.status.busy = false ∧ check v ≠ .none ∧
      writeCmd v s = raiseCmdError (check v) (sampleCommand v s)) := by
  unfold writeCmd
  cases hb : s.status.busy with
  | true => left; exact ⟨rfl, by simp⟩
  | false =>
    right
    by_cases hc : check v = .none
    · left; exact ⟨rfl, hc, by simp [hc]⟩
    · right; exact ⟨rfl, hc, by simp [hc]⟩

/-! ## Moves and steps -/

/-- The unit's step: nothing with PEND empty, else the command's meaning. -/
theorem unitStep_next {s t : State} (h : unitStep s = .next t) :
    (s.pend = none ∧ t = s) ∨ (∃ v i, s.pend = some v ∧ decode v = .ok i ∧ exec i s = .next t) := by
  simp only [unitStep] at h
  split at h
  · next hp => left; exact ⟨hp, by simpa using h.symm⟩
  · next v hp =>
    split at h
    · next i hi => right; exact ⟨v, i, hp, hi, h⟩
    · cases h

/-- Every way a move can answer a next state. -/
theorem doMove_next {m : Move} {s t : State} (h : doMove m s = .next t) :
    (∃ a, m = .host a ∧ s.rstN = true ∧ hostAccess a s = .next t) ∨
    (∃ a, m = .host a ∧ s.rstN = false ∧ t = unanswered s) ∨
    (m = .complete ∧ s.rstN = true ∧ unitStep s = .next t) ∨
    (m = .complete ∧ s.rstN = false ∧ t = s) ∨
    (m = .rstLow ∧ t = assertReset s) ∨ (m = .rstHigh ∧ t = releaseReset s) := by
  cases m with
  | host a =>
    cases hr : s.rstN with
    | true => left; exact ⟨a, rfl, rfl, by simpa [doMove, hr] using h⟩
    | false =>
      right; left
      refine ⟨a, rfl, rfl, ?_⟩
      simp only [doMove, hr, Bool.false_eq_true, if_false, Host.Outcome.next.injEq] at h
      exact h.symm
  | complete =>
    cases hr : s.rstN with
    | true => right; right; left; exact ⟨rfl, rfl, by simpa [doMove, hr] using h⟩
    | false =>
      right; right; right; left
      refine ⟨rfl, rfl, ?_⟩
      simp only [doMove, hr, Bool.false_eq_true, if_false, Host.Outcome.next.injEq] at h
      exact h.symm
  | rstLow =>
    right; right; right; right; left
    simp only [doMove, Host.Outcome.next.injEq] at h
    exact ⟨rfl, h.symm⟩
  | rstHigh =>
    right; right; right; right; right
    simp only [doMove, Host.Outcome.next.injEq] at h
    exact ⟨rfl, h.symm⟩

/-- A step is the head of the agenda, or with none left the unit's own. -/
theorem step_next {s t : State} (h : step s = .next t) :
    (s.agenda = [] ∧ doMove .complete s = .next t) ∨
    (∃ m rest, s.agenda = m :: rest ∧ doMove m (s.setAgenda rest) = .next t) := by
  simp only [step, nextMove] at h
  split at h
  · next ha => left; exact ⟨ha, h⟩
  · next m rest ha => right; exact ⟨m, rest, ha, h⟩

end Sys2Proof.Machine
end

