-- ==== Sys2Proof/Laws/PerInstr.lean ====
section
/-! SUPPORT. A fact about every instruction as syntax, one lemma a constructor: the OP field of its
word is its opcode, and that opcode has a format. -/

namespace Sys2Proof.Laws.OpField

/-- The word of `i` carries `i`'s opcode in bits 7:0 (rules R91, R98), and the opcode is assigned. -/
def Statement (i : Instr) : Prop := opField (encode i) = i.opcode ∧ (formatOf i.opcode).isSome = true

theorem copy (rd rs1 : Reg) : Statement (.copy rd rs1) := ⟨opField_layout .., rfl⟩
theorem reduce (rd rs1 : Reg) : Statement (.reduce rd rs1) := ⟨opField_layout .., rfl⟩
theorem canon (rd rs1 : Reg) : Statement (.canon rd rs1) := ⟨opField_layout .., rfl⟩
theorem ldc (rd : Reg) (k : RomConst) : Statement (.ldc rd k) := ⟨opField_layout .., rfl⟩
theorem add (rd rs1 rs2 : Reg) : Statement (.add rd rs1 rs2) := ⟨opField_layout .., rfl⟩
theorem sub (rd rs1 rs2 : Reg) : Statement (.sub rd rs1 rs2) := ⟨opField_layout .., rfl⟩
theorem mul (rd rs1 rs2 : Reg) : Statement (.mul rd rs1 rs2) := ⟨opField_layout .., rfl⟩
theorem sqr (rd rs1 : Reg) : Statement (.sqr rd rs1) := ⟨opField_layout .., rfl⟩
theorem cswap (ra rb : Reg) (swap : Bool) : Statement (.cswap ra rb swap) := ⟨opField_layout .., rfl⟩
theorem mulw (rd rs1 : Reg) (w : BitVec 16) : Statement (.mulw rd rs1 w) := ⟨opField_layout .., rfl⟩
theorem isqrt (rd rs1 : Reg) : Statement (.isqrt rd rs1) := ⟨opField_layout .., rfl⟩
theorem inv (rd rs1 : Reg) : Statement (.inv rd rs1) := ⟨opField_layout .., rfl⟩
theorem frombytes (rd : Reg) : Statement (.frombytes rd) := ⟨opField_layout .., rfl⟩
theorem tobytes (rs1 : Reg) : Statement (.tobytes rs1) := ⟨opField_layout .., rfl⟩

end Sys2Proof.Laws.OpField
end

