-- ==== Sys2Proof/Laws/Value.lean ====
section
/-! SUPPORT. The integer value of a field element: as a sum over the lanes, and what the update of one
lane does to it. -/

namespace Sys2Proof.Machine

theorem P_eq : Config.P = 2 ^ 448 - 2 ^ 224 - 1 := by decide +kernel

theorem val_eq_sum (x : FE) : val x = ∑ i : Fin 16, (x.lane i).toNat * 2 ^ (28 * i.val) := by
  rw [val, lanes, Fin.sum_univ_def]

/-- Lane `i` replaced: its old weight goes, its new weight comes. -/
theorem val_setLane (x : FE) (i : Fin 16) (v : Limb) :
    val (x.setLane i v) + (x.lane i).toNat * 2 ^ (28 * i.val) =
      val x + v.toNat * 2 ^ (28 * i.val) := by
  rw [val_eq_sum, val_eq_sum, ← Finset.add_sum_erase _ _ (Finset.mem_univ i),
    ← Finset.add_sum_erase _ (fun j => (x.lane j).toNat * 2 ^ (28 * j.val)) (Finset.mem_univ i)]
  rw [Finset.sum_congr rfl (g := fun j => (x.lane j).toNat * 2 ^ (28 * j.val))]
  · simp only [Vec16.lane_setLane_self]; omega
  · intro j hj
    rw [Vec16.lane_setLane_ne x v (Finset.ne_of_mem_erase hj)]

theorem bytesVal_eq_sum (b : Bytes) : bytesVal b = ∑ i : Fin 56, (b[i]).toNat * 2 ^ (8 * i.val) := by
  rw [bytesVal, Fin.sum_univ_def]

theorem val_ext {x y : FE} (h : ∀ i, x.lane i = y.lane i) : val x = val y := by
  rw [Vec16.ext_lane h]

end Sys2Proof.Machine
end

