-- ==== Sys2Proof/Tests/Slice0.lean ====
section
/-! SUPPORT. Tests of the model against the spec's own vectors (spec/95_test_vectors.md, named V-… below)
and worked examples, and a witness for every statement that has hypotheses. -/

namespace Sys2Proof.Tests

open Sys2Proof Sys2Proof.Machine

/-! ## Small states -/

/-- The reset state with register `r` holding `x`. -/
def withReg (r : Reg) (x : FE) : State := State.reset.writeFr r x

/-- The reset state with registers 1 and 2 holding `x` and `y`. -/
def withTwo (x y : FE) : State := (withReg 1 x).writeFr 2 y

/-- Register `r` after `i` completes. -/
def regAfter (i : Instr) (s : State) (r : Reg) : Option FE :=
  match exec i s with
  | .next t => some (t.readFr r)
  | .fault _ => none
  | .refused _ => none

/-- `M` and `MAXWR` of the vectors. -/
abbrev M : Limb := 0x0FFFFFFF#32

def maxwr : FE := #v[M, M, M, M, M, M, M, M, M, M, M, M, M, M, M, 0x1000001F#32]

def allM : FE := Vector.replicate 16 M

/-- The limbs of P − 1. -/
def pMinus1 : FE :=
  #v[0x0FFFFFFE#32, M, M, M, M, M, M, M, 0x0FFFFFFE#32, M, M, M, M, M, M, M]

/-- The reset state with word `v` in flight. -/
def busyWith (v : Word) : State := placeCommand v State.reset

/-! ## Well-formedness -/

/-- Rule R94: a zero multiplier is no command. -/
theorem test_wf_refuses_zero_multiplier : (Instr.mulw 3 4 0#16).wf = false := by decide

theorem test_wf_accepts_multiplier_bounds :
    (Instr.mulw 3 4 1#16).wf = true ∧ (Instr.mulw 3 4 65535#16).wf = true := by decide

/-! ## Decoding: one word for each constructor, from rules R92, R98 and R101 and the vectors -/

theorem test_decode_copy : decode 0x00002701#32 = .ok (.copy 7 2) := by decide
theorem test_decode_reduce : decode 0x00002102#32 = .ok (.reduce 1 2) := by decide
theorem test_decode_canon : decode 0x00005503#32 = .ok (.canon 5 5) := by decide
theorem test_decode_ldc : decode 0x00000504#32 = .ok (.ldc 5 .zero) ∧
    decode 0x00010504#32 = .ok (.ldc 5 .one) ∧ decode 0x00020504#32 = .ok (.ldc 5 .prime) := by decide
theorem test_decode_add : decode 0x00021310#32 = .ok (.add 3 1 2) := by decide
theorem test_decode_sub : decode 0x00021311#32 = .ok (.sub 3 1 2) := by decide
theorem test_decode_mul : decode 0x00021312#32 = .ok (.mul 3 1 2) := by decide
theorem test_decode_sqr : decode 0x00001213#32 = .ok (.sqr 2 1) := by decide
theorem test_decode_cswap : decode 0x00012114#32 = .ok (.cswap 1 2 true) ∧
    decode 0x00002114#32 = .ok (.cswap 1 2 false) := by decide
theorem test_decode_mulw : decode 0x98A94315#32 = .ok (.mulw 3 4 39081#16) := by decide
theorem test_decode_isqrt : decode 0x00001220#32 = .ok (.isqrt 2 1) := by decide
theorem test_decode_inv : decode 0x00001221#32 = .ok (.inv 2 1) := by decide
theorem test_decode_frombytes : decode 0x00000130#32 = .ok (.frombytes 1) := by decide
theorem test_decode_tobytes : decode 0x00003031#32 = .ok (.tobytes 3) := by decide

/-- The top register number in every field, bit 31 of the multiplier: no bit of a field is dropped. -/
theorem test_decode_field_edges : decode 0x000FFF12#32 = .ok (.mul 15 15 15) ∧
    decode 0x8000FF15#32 = .ok (.mulw 15 15 32768#16) ∧ decode 0x0001F014#32 = .ok (.cswap 0 15 true) := by
  decide

/-- The encoder writes the words of rule R101. -/
theorem test_encode_examples : encode (.sqr 1 1) = 0x00001113#32 ∧ encode (.add 0 1 2) = 0x00021010#32 ∧
    encode (.mulw 3 4 39081#16) = 0x98A94315#32 ∧ encode (.ldc 5 .prime) = 0x00020504#32 ∧
    encode (.cswap 1 2 true) = 0x00012114#32 ∧ encode (.frombytes 1) = 0x00000130#32 ∧
    encode (.tobytes 3) = 0x00003031#32 := by decide

/-- The rejected words of the acceptance check's vectors: ILLEGAL_OPCODE. -/
theorem test_check_illegal_opcode : check 0x00000000#32 = .illegalOpcode ∧
    check 0x000000FF#32 = .illegalOpcode ∧ check 0x00000005#32 = .illegalOpcode ∧
    check 0x00000016#32 = .illegalOpcode ∧ check 0x00000022#32 = .illegalOpcode ∧
    check 0x00000032#32 = .illegalOpcode := by decide

/-- RESERVED_FIELD. -/
theorem test_check_reserved_field : check 0x00121010#32 = .reservedField ∧
    check 0x00F01110#32 = .reservedField ∧ check 0x00011A04#32 = .reservedField ∧
    check 0x00010001#32 = .reservedField ∧ check 0x00010013#32 = .reservedField ∧
    check 0x00020114#32 = .reservedField ∧ check 0x00001130#32 = .reservedField ∧
    check 0x00000131#32 = .reservedField ∧ check 0x80000021#32 = .reservedField := by decide

/-- ILLEGAL_OPERAND, and the accepted words. -/
theorem test_check_illegal_operand : check 0x00001815#32 = .illegalOperand ∧
    check 0x00030104#32 = .illegalOperand ∧ check 0x00011815#32 = .none ∧
    check 0xFFFF0015#32 = .none ∧ check 0x00012114#32 = .none ∧ check 0x00020504#32 = .none := by decide

/-- The decoder rejects by the same codes. -/
theorem test_decode_rejects : decode 0x00011A04#32 = .error .reservedField ∧
    decode 0x00030504#32 = .error .illegalOperand ∧ decode 0x00001215#32 = .error .illegalOperand ∧
    decode 0x00000131#32 = .error .reservedField ∧ decode 0x00000000#32 = .error .illegalOpcode := by decide

theorem test_decodeTableWord : decodeTableWord 32 0x00001221 = some (.inv 2 1) ∧
    decodeTableWord 32 0x00000000 = none := by decide

/-! ## 40_representation.md -/

/-- V-CP2: limbs are copied, not reduced. -/
theorem test_copy_keeps_excess : regAfter (.copy 7 2) (withReg 2 maxwr) 7 = some maxwr := by decide +kernel

/-- V-LD3: one limb of PRIME, and its value (rule R26). -/
theorem test_ldc_prime : regAfter (.ldc 5 .prime) State.reset 5 =
    some #v[M, M, M, M, M, M, M, M, 0x0FFFFFFE#32, M, M, M, M, M, M, M] ∧
    val (rom .prime) = 2 ^ 448 - 2 ^ 224 - 1 := by decide +kernel

/-- V-RD1. -/
theorem test_reduce_folds : regAfter (.reduce 1 1)
    (withReg 1 #v[0, 0, 0, 0, 0, 0, 0, 0, 0, 0, 0, 0, 0, 0, 0, 0x10000000#32]) 1 =
    some #v[1, 0, 0, 0, 0, 0, 0, 0, 1, 0, 0, 0, 0, 0, 0, 0] := by decide +kernel

/-- V-RD2. -/
theorem test_reduce_maxwr : regAfter (.reduce 1 2) (withReg 2 maxwr) 1 =
    some #v[0, 0, 0, 0, 0, 0, 0, 0, 1, 0, 0, 0, 0, 0, 0, 0x20#32] := by decide +kernel

/-- V-CN1: PRIME is a zero. -/
theorem test_canon_prime : regAfter (.canon 5 5) (withReg 5 (rom .prime)) 5 = some (rom .zero) := by
  decide +kernel

/-- V-CN3. -/
theorem test_canon_allM : regAfter (.canon 1 2) (withReg 2 allM) 1 =
    some #v[0, 0, 0, 0, 0, 0, 0, 0, 1, 0, 0, 0, 0, 0, 0, 0] := by decide +kernel

/-! ## 41_arithmetic.md -/

/-- V-AD3: limb 15 of a sum reaches 2^28. -/
theorem test_add_excess : regAfter (.add 3 1 2) (withTwo allM (rom .one)) 3 =
    some #v[0, 0, 0, 0, 0, 0, 0, 0, 0, 0, 0, 0, 0, 0, 0, 0x10000000#32] := by decide +kernel

/-- V-AD5: a source that is also the destination. -/
theorem test_add_doubles_in_place : regAfter (.add 1 1 1) (withReg 1 maxwr) 1 =
    some #v[0, 0, 0, 0, 0, 0, 0, 0, 2, 0, 0, 0, 0, 0, 0, 0x40#32] := by decide +kernel

/-- V-SB1. -/
theorem test_sub_small : regAfter (.sub 3 1 2) (withTwo (fe 5) (fe 3)) 3 =
    some #v[1, 0, 0, 0, 0, 0, 0, 0, M, M, M, M, M, M, M, M] := by decide +kernel

/-- V-SB4. -/
theorem test_sub_from_zero : regAfter (.sub 3 1 2) (withTwo (rom .zero) maxwr) 3 =
    some #v[M, M, M, M, M, M, M, M, 0x0FFFFFFD#32, M, M, M, M, M, M, 0x0FFFFFDF#32] := by decide +kernel

/-- V-ML6: the largest WR input squared. -/
theorem test_mul_maxwr : regAfter (.mul 3 1 1) (withReg 1 maxwr) 3 =
    some #v[1, 0, 0, 0, 0, 0, 0x400#32, 0x40#32, 1, 0, 0, 0, 0, 0, 0x800#32, 0x40#32] := by decide +kernel

/-- V-ML5: two different sources, a product that folds back. -/
theorem test_mul_folds_back : regAfter (.mul 3 1 2) (withTwo (fe (2 ^ 447)) (fe 2)) 3 =
    some #v[1, 0, 0, 0, 0, 0, 0, 0, 1, 0, 0, 0, 0, 0, 0, 0] := by decide +kernel

/-- V-SQ2. -/
theorem test_sqr_minus_one : regAfter (.sqr 2 1) (withReg 1 pMinus1) 2 =
    some #v[0, 0, 0, 0, 0, 0, 0, 0, M, M, M, M, M, M, M, M] := by decide +kernel

/-- V-CS3: limbs move unchanged. -/
theorem test_cswap_swaps : regAfter (.cswap 1 2 true) (withTwo pMinus1 maxwr) 1 = some maxwr ∧
    regAfter (.cswap 1 2 true) (withTwo pMinus1 maxwr) 2 = some pMinus1 := by decide +kernel

/-- V-CS2 and V-CS4. -/
theorem test_cswap_keeps : regAfter (.cswap 1 2 false) (withTwo pMinus1 maxwr) 1 = some pMinus1 ∧
    regAfter (.cswap 1 1 true) (withTwo pMinus1 maxwr) 1 = some pMinus1 := by decide +kernel

/-- V-MW3. -/
theorem test_mulw_largest : regAfter (.mulw 3 4 65535#16) (withReg 4 maxwr) 3 =
    some #v[0, 0, 0, 0, 0, 0, 0, 0, 0xFFFF#32, 0, 0, 0, 0, 0, 0, 0x1FFFE0#32] := by decide +kernel

/-- V-MW1. -/
theorem test_mulw_ladder_constant : regAfter (.mulw 3 4 39081#16) (withReg 4 (fe 5)) 3 =
    some (fe 195405) := by decide +kernel

/-! ## 42_inversion.md -/

/-- The exponent of FE.ISQRT, the chain run over sums of exponents (rule R202, item 1). -/
theorem test_isqrt_exponent : isqrtChain (fun a b : Nat => a + b) 0 0 1 = 2 ^ 446 - 2 ^ 222 - 1 := by
  decide +kernel

/-- V-IS1: one is its own square. -/
theorem test_isqrt_one : regAfter (.isqrt 2 1) (withReg 1 (rom .one)) 2 = some (rom .one) := by
  have h : mulFn (rom .one) (rom .one) = rom .one := by decide +kernel
  have r : (withReg 1 (rom .one)).readFr 1 = rom .one := by simp [withReg]
  simp [regAfter, exec, execIsqrt, finishWrite, finish, isqrtFn, r, isqrtChain_fixed mulFn _ _ _ h]

/-- The exponent of FE.INV (rule R204). -/
theorem test_inv_exponent : invChain (fun a b : Nat => a + b) 0 0 1 = 2 ^ 448 - 2 ^ 224 - 3 := by
  decide +kernel

/-- V-IV5: zero gives zero, with DONE and no error. -/
theorem test_inv_zero : regAfter (.inv 2 1) (withReg 1 (rom .zero)) 2 = some (rom .zero) := by
  have h : mulFn (rom .zero) (rom .zero) = rom .zero := by decide +kernel
  have r : (withReg 1 (rom .zero)).readFr 1 = rom .zero := by simp [withReg]
  simp [regAfter, exec, execInv, finishWrite, finish, invFn, r, invChain_fixed mulFn _ _ _ h]

/-- Rule R207. -/
theorem test_chain_counts : chainMultiplies chain = 12 ∧ chainSquarings chain = 445 ∧
    isqrtMuls = 457 ∧ invMuls = 460 := by decide

/-! ## 43_codec.md -/

/-- S1, V-FB5: byte `i` is `i`. -/
theorem test_unpack_rising : unpackFn (Vector.ofFn fun i : Fin 56 => BitVec.ofNat 8 i.val) =
    #v[0x03020100#32, 0x00605040#32, 0x0A090807#32, 0x00D0C0B0#32, 0x01100F0E#32, 0x01413121#32,
       0x08171615#32, 0x01B1A191#32, 0x0F1E1D1C#32, 0x02221201#32, 0x06252423#32, 0x02928272#32,
       0x0D2C2B2A#32, 0x0302F2E2#32, 0x04333231#32, 0x03736353#32] := by decide +kernel

/-- V-FB3 and V-FB4: the range check at the modulus. -/
theorem test_noncanon_boundary : noncanonFn (bytesOf (2 ^ 448 - 2 ^ 224 - 1)) = true ∧
    noncanonFn (bytesOf (2 ^ 448 - 2 ^ 224 - 2)) = false := by decide +kernel

/-- V-TB4: `00×28, 01, 00×24, 02, 00, 00`, in canonical form. -/
theorem test_tobytes_maxwr : (match exec (.tobytes 3) (withReg 3 maxwr) with
    | .next t => t.iobuf
    | .fault _ => []
    | .refused _ => []) = [(28, 1#8), (53, 2#8)] := by decide +kernel

/-- V-TB5. -/
theorem test_pack_minus_one : packFn pMinus1 = bytesOf (2 ^ 448 - 2 ^ 224 - 2) := by decide +kernel

/-! ## Host accesses, errors, reset -/

/-- P4 step 3: NONCANON, ERRCODE 3, ERR. -/
theorem test_status_word : statusWord ⟨false, false, true, .illegalOperand, true⟩ = 0x00000134#32 ∧
    statusWord ⟨true, false, true, .busyWrite, false⟩ = 0x00000045#32 := by decide

/-- P4 step 5: W1C of ERR leaves NONCANON. -/
theorem test_status_w1c : statusW1C 0x00000004#32 ⟨false, true, true, .illegalOperand, true⟩ =
    ⟨false, true, false, .none, true⟩ := by decide

/-- P5 (b): a CMD write while BUSY is dropped; CMD keeps the word in flight. -/
theorem test_busy_write : statusWord (writeCmd 0x00011210#32 (busyWith 0x00010104#32)).status =
    0x00000045#32 ∧ (writeCmd 0x00011210#32 (busyWith 0x00010104#32)).cmd = 0x00010104#32 := by decide

/-- P6 steps 2 and 3: the first error is kept, the second word is sampled. -/
theorem test_first_error_kept :
    let s := writeCmd 0x00121010#32 (writeCmd 0x00000000#32 State.reset)
    statusWord s.status = 0x00000014#32 ∧ s.cmd = 0x00121010#32 ∧
      s.errorLog = [.reservedField, .illegalOpcode] := by decide

/-- V-RS1 and V-RS2: SRST discards bits 0 and 1 and the command in flight. -/
theorem test_soft_reset : (writeCtrl 0x80000003#32 (busyWith 0x00001221#32)).ctrl = ⟨false, false⟩ ∧
    (writeCtrl 0x80000003#32 (busyWith 0x00001221#32)).pend = none := by decide

/-- V-RS4 and rule R61: what the offsets reach. -/
theorem test_window : windowReg 0x06 = none ∧ windowReg 0x10 = none ∧ windowReg 0x3C = none ∧
    windowReg 0x78 = none ∧ windowReg 0x7C = none ∧ windowReg 0x40 = some (.iobuf 0) ∧
    windowReg 0x74 = some (.iobuf 13) ∧ windowReg 0x0C = some .id := by decide

/-- V-RS3: ID, by a whole step with the read on the agenda. -/
theorem test_read_id : step { State.reset with agenda := [.host (memRead 0x0C)] } =
    .next { State.reset with response := some (.okayData 0x04480100#32) } := by
  simp [step, nextMove, doMove, hostAccess, windowReg, memRead, hostRead, answer,
    accessReg, windowOffset_base, State.reset, Config.idValue]

/-- V-RS4: a 16-bit read at 0x04 gets the ERROR response. -/
theorem test_narrow_read_faults (s : State) :
    hostAccess ⟨.read, .w16, Config.feuBase + 0x04⟩ s = .fault .busError := by
  simp [hostAccess, accessReg]

/-- P6's table of `irq`. -/
theorem test_irq : irq { State.reset with status := ⟨false, true, false, .none, false⟩, ctrl := ⟨true, false⟩ } = true ∧
    irq { State.reset with status := ⟨false, true, false, .none, false⟩, ctrl := ⟨false, true⟩ } = false ∧
    irq { State.reset with status := ⟨false, false, true, .busyWrite, false⟩, ctrl := ⟨false, true⟩ } = true := by
  decide

/-- Rule R63: little-endian words. -/
theorem test_iobuf_word : (writeWord [] 13 0x7FFFFF80#32) =
    [(52, 0x80#8), (53, 0xFF#8), (54, 0xFF#8), (55, 0x7F#8)] ∧
    readWord (writeWord [] 13 0x7FFFFF80#32) 13 = 0x7FFFFF80#32 := by decide

/-- R101: what an assembler accepts and refuses. -/
theorem test_assemble : assemble "FE.MULW" [.reg 3, .reg 4, .num 39081] = some (.mulw 3 4 39081#16) ∧
    assemble "FE.MULW" [.reg 3, .reg 4, .num (-1)] = none ∧
    assemble "FE.LDC" [.reg 5, .name "p"] = some (.ldc 5 .prime) ∧
    assemble "FE.COPY" [.reg 16, .reg 0] = none := by decide

/-! ## Witnesses: for each statement with hypotheses, what meets them, at the ends of its ranges -/

theorem witness_DecodeOfEncodeIsIdentity : (Instr.mulw 15 15 0xFFFF#16).wf = true ∧
    (Instr.mulw 0 0 1#16).wf = true ∧ (Instr.cswap 15 15 true).wf = true ∧ (Instr.ldc 15 .prime).wf = true := by
  decide

theorem witness_DecodedWordIsItsEncoding : decode 0xFFFFFF15#32 = .ok (.mulw 15 15 0xFFFF#16) ∧
    decode 0x0000F031#32 = .ok (.tobytes 15) := by decide

theorem witness_DecodeRejectsAsCheckSays : decode 0x00000131#32 = .error .reservedField ∧
    decode 0x00030004#32 = .error .illegalOperand ∧ decode 0xFFFFFFFF#32 = .error .illegalOpcode ∧
    decode 0x00000001#32 = .ok (.copy 0 0) := by decide

/-- Both ends of every range of rule R99, and of every range of assigned opcodes. -/
theorem witness_UnassignedOpcodesAreIllegal :
    ((([0x00, 0x05, 0x0F, 0x16, 0x1F, 0x22, 0x2F, 0x32, 0xFF] : List Nat).all fun op =>
      check (BitVec.ofNat 32 op) == .illegalOpcode) = true) ∧
    ((([0x01, 0x04, 0x10, 0x15, 0x20, 0x21, 0x30, 0x31] : List Nat).all fun op =>
      check (BitVec.ofNat 32 op) != .illegalOpcode) = true) ∧ State.reset.status.busy = false := by decide

/-- The lowest reserved bit of every format that has one. -/
theorem witness_ReservedBitsAreNeverIgnored :
    (formatOf 0x01#8 = some .rr ∧ 0x00010001#32 &&& resMask .rr ≠ 0#32) ∧
    (formatOf 0x10#8 = some .rrr ∧ 0x00100010#32 &&& resMask .rrr ≠ 0#32) ∧
    (formatOf 0x04#8 = some .rk ∧ 0x00001004#32 &&& resMask .rk ≠ 0#32 ∧
      0x00040004#32 &&& resMask .rk ≠ 0#32) ∧
    (formatOf 0x14#8 = some .sw ∧ 0x00020014#32 &&& resMask .sw ≠ 0#32) ∧
    (formatOf 0x30#8 = some .d ∧ 0x00001030#32 &&& resMask .d ≠ 0#32) ∧
    (formatOf 0x31#8 = some .s ∧ 0x00000131#32 &&& resMask .s ≠ 0#32) ∧
    (formatOf 0x15#8 = some .ri ∧ 0xFFFFFF15#32 &&& resMask .ri = 0#32) := by decide

theorem witness_IllegalOperandsExactly : State.reset.status.busy = false ∧
    (check 0x00000015#32 ≠ .illegalOpcode ∧ check 0x00000015#32 ≠ .reservedField ∧
      opField 0x00000015#32 = 0x15#8 ∧ (0x00000015#32).extractLsb' 16 16 = 0#16) ∧
    (check 0x00030004#32 ≠ .illegalOpcode ∧ check 0x00030004#32 ≠ .reservedField ∧
      opField 0x00030004#32 = 0x04#8 ∧ (0x00030004#32).extractLsb' 16 2 = 3#2) ∧
    check 0x00010015#32 = .none ∧ check 0x00020004#32 = .none := by decide

theorem witness_AssemblerRefusesWhatHasNoEncoding :
    assemble "FE.MULW" [.reg 15, .reg 0, .num 65535] = some (.mulw 15 0 65535#16) ∧
    assemble "FE.MULW" [.reg 15, .reg 0, .num 65536] = none ∧
    assemble "FE.MULW" [.reg 15, .reg 0, .num 0] = none ∧
    assemble "FE.CSWAP" [.reg 1, .reg 2, .num 2] = none ∧
    assemble "FE.COPY" [.reg 15, .reg 0] = some (.copy 15 0) ∧
    (AsmOperand.reg 16 ∈ [AsmOperand.reg 0, .reg 16, .num 1] ∧
      assemble "FE.CSWAP" [.reg 0, .reg 16, .num 1] = none) ∧
    (AsmOperand.name "two" ≠ .name "zero" ∧ AsmOperand.name "two" ≠ .name "one" ∧
      AsmOperand.name "two" ≠ .name "p" ∧ assemble "FE.LDC" [.reg 0, .name "two"] = none) ∧
    assemble "FE.LDC" [.reg 0, .name "zero"] = some (.ldc 0 .zero) := by decide

/-- The invariant of a state that `placeCommand` makes of the reset state with one register set. -/
theorem inv_placed {v : Word} (hv : check v = .none) (r : Reg) {x : FE} (hx : WR x) :
    (placeCommand v (withReg r x)).Inv where
  frWR q := by
    have h : (placeCommand v (withReg r x)).readFr q = if q = r then x else FE.allZero := by
      have : (placeCommand v (withReg r x)).readFr q = (withReg r x).readFr q := rfl
      rw [this, withReg, readFr_writeFr, readFr_reset]
    rw [h]
    split
    · exact hx
    · decide
  iobufWf := rfl
  busyPend := rfl
  pendChecked w hw := by
    obtain rfl : v = w := by simpa [placeCommand, releaseReset, acceptCommand] using hw
    exact ⟨hv, rfl, rfl⟩
  errCode := ⟨fun _ => rfl, fun _ => rfl⟩
  logged _ := rfl
  heldInReset h := by cases h

/-- The moves to come are no part of the invariant out of reset. -/
theorem inv_setAgenda {s : State} (h : s.Inv) (hr : s.rstN = true) (ms : List Move) :
    (s.setAgenda ms).Inv where
  frWR := h.frWR
  iobufWf := h.iobufWf
  busyPend := h.busyPend
  pendChecked := h.pendChecked
  errCode := h.errCode
  logged := h.logged
  heldInReset hl := by
    have : s.rstN = false := hl
    rw [hr] at this
    cases this

theorem wr_maxwr : WR maxwr := by decide

theorem wr_primeLimbs : WR primeLimbs := by decide

/-- A word in flight, the unit's step next: the premises of the completion statements. -/
theorem witness_StepPerformsTheCommandInFlight : decode 0x00001221#32 = .ok (.inv 2 1) ∧
    (busyWith 0x00001221#32).rstN = true ∧ (busyWith 0x00001221#32).pend = some 0x00001221#32 ∧
    (busyWith 0x00001221#32).agenda = [.complete] ∧
    ((busyWith 0x00001221#32).setAgenda []).agenda = [] := by decide

/-- WR inputs at the bound: FE.REDUCE, FE.CANON, FE.ADD, FE.SUB, FE.MUL, FE.SQR, FE.MULW, FE.ISQRT,
FE.INV, FE.TOBYTES and the round trips. -/
theorem witness_wr_sources : WR ((withTwo maxwr pMinus1).readFr 1) ∧
    WR ((withTwo maxwr pMinus1).readFr 2) ∧ (withTwo maxwr pMinus1).iobuf.wf = true := by
  decide

/-- Tight inputs: FE.REDUCE and FE.MULW keep them. -/
theorem witness_tight_source : Tight ((withReg 1 allM).readFr 1) ∧ (1#16 : BitVec 16) = 1#16 := by decide

theorem witness_WeakReductionIsCongruent : ∀ k : Fin 16,
    ((Vec16.build fun _ => 0x7FFFFFFF#32 : FE).lane k).toNat < 2 ^ 31 := by decide

theorem witness_CanonIsIdempotentAndUnique : WR primeLimbs ∧ WR zeroLimbs ∧
    residue primeLimbs = residue zeroLimbs ∧ canonFn primeLimbs = canonFn zeroLimbs ∧
    residue oneLimbs ≠ residue zeroLimbs := by decide +kernel

/-- One register as both sources. -/
theorem witness_SubIsFieldSubtraction : (withReg 1 maxwr).readFr 1 = (withReg 1 maxwr).readFr 1 ∧
    regAfter (.sub 3 1 1) (withReg 1 maxwr) 3 = some primeLimbs := by decide +kernel

theorem witness_MulCoreIsExactBelowItsBound : ∀ k : Fin 16,
    ((Vec16.build fun _ => 0x298757D1#32 : FE).lane k).toNat ≤ 0x298757D1 := by decide

/-- `S = 1` and `S = 0`, and a register left alone. -/
theorem witness_CswapExchangesOrKeeps : (0 : Reg) ≠ 1 ∧ (0 : Reg) ≠ 2 ∧
    regAfter (.cswap 1 2 true) (withTwo pMinus1 maxwr) 0 = some FE.allZero := by decide +kernel

/-- The premises of the zero statement, each one met. -/
theorem witness_InverseOfZeroIsZero : (WR ((withReg 1 primeLimbs).readFr 1) ∧
      residue ((withReg 1 primeLimbs).readFr 1) = 0) ∧ State.reset.readFr 1 = zeroLimbs ∧
    (withReg 1 primeLimbs).readFr 1 = primeLimbs := by decide +kernel

/-- Bytes that encode P − 1, the largest below P, and P itself. -/
theorem witness_BytesSurviveTheRoundTrip :
    (writeBytes [] (bytesOf (2 ^ 448 - 2 ^ 224 - 2))).wf = true ∧
    bytesVal (readBytes (writeBytes [] (bytesOf (2 ^ 448 - 2 ^ 224 - 2)))) < Config.P ∧
    (writeBytes [] (bytesOf (2 ^ 448 - 2 ^ 224 - 1))).wf = true ∧
    Config.P ≤ bytesVal (readBytes (writeBytes [] (bytesOf (2 ^ 448 - 2 ^ 224 - 1)))) := by decide +kernel

/-- The same values in other registers, and a destination that is a source. -/
theorem witness_RegisterOverlapIsSafe :
    (withTwo pMinus1 maxwr).readFr 1 = ((withReg 5 pMinus1).writeFr 6 maxwr).readFr 5 ∧
    (withTwo pMinus1 maxwr).readFr 2 = ((withReg 5 pMinus1).writeFr 6 maxwr).readFr 6 ∧
    (∃ t, exec (.sub 2 1 2) (withTwo pMinus1 maxwr) = .next t) ∧
    (∃ t, exec (.sub 5 5 6) ((withReg 5 pMinus1).writeFr 6 maxwr) = .next t) :=
  ⟨by decide, by decide, ⟨_, rfl⟩, ⟨_, rfl⟩⟩

/-- `fe.neg` with the temporary the destination, and an ill-formed one. -/
theorem witness_NegPseudoNegates : (Pseudo.neg 3 1 3).wf = true ∧ (Pseudo.neg 1 1 3).wf = true ∧
    (Pseudo.neg 3 1 1).wf = false ∧ WR ((withReg 1 maxwr).readFr 1) := by decide

/-- The offsets where mapped and unmapped meet, and an address outside the window. -/
theorem witness_BusErrorExactly (s : State) :
    (([0x10, 0x3C, 0x3F, 0x78, 0x7C, 0x80, 0x02, 0x75, 0x77] : List Nat).all fun off =>
      (windowReg off).isNone) = true ∧
    (([0x00, 0x0C, 0x40, 0x74] : List Nat).all fun off => (windowReg off).isSome) = true ∧
    (∃ t, hostAccess (memRead 0x74) s = .next t) ∧ (∃ t, hostAccess (memWrite 0x0C 0#32) s = .next t) ∧
    (∀ off, off < 0x80 → Config.feuBase + 0x80 ≠ Config.feuBase + off) ∧
    hostAccess ⟨.read, .w32, Config.feuBase + 0x80⟩ s = .fault .busError :=
  ⟨by decide, by decide, ⟨_, hostAccess_memRead (r := .iobuf 13) (by decide) rfl s⟩,
    ⟨_, hostAccess_memWrite (r := .id) 0#32 (by decide) rfl s⟩, by omega,
    by simp [hostAccess, accessReg, windowOffset_outside]⟩

/-- An idle unit with an accepted and with a rejected word, a busy unit, and a command that decodes. -/
theorem witness_CommandLifeCycle : State.reset.status.busy = false ∧ check 0x00001113#32 = .none ∧
    check 0x000000FF#32 ≠ .none ∧ (busyWith 0x00001113#32).status.busy = true ∧
    State.reset.pend = none ∧ (busyWith 0x00001113#32).pend = some 0x00001113#32 ∧
    decode 0x00001113#32 = .ok (.sqr 1 1) := by decide

theorem witness_RejectionRecordsAndChangesNothingElse : State.reset.status.busy = false ∧
    check 0x00012000#32 ≠ .none ∧ check 0x00001113#32 = .none ∧
    (busyWith 0x00001113#32).status.busy = true ∧
    ∃ j, writeIobuf 13 0#32 (busyWith 0x00001113#32) = writeIobuf j 0#32 (busyWith 0x00001113#32) :=
  ⟨by decide, by decide, by decide, by decide, ⟨13, rfl⟩⟩

/-- The busy unit, CMD and the two ends of IOBUF, and a CTRL word without SRST. -/
theorem witness_WritesWhileBusyAreDropped : (busyWith 0x00001031#32).status.busy = true ∧
    (busyWith 0x00001031#32).status.err = false ∧ (0x40 ≤ 0x40 ∧ 0x40 % 4 = 0) ∧
    (0x74 ≤ 0x74 ∧ 0x74 % 4 = 0) ∧ (0x7FFFFFFF#32)[31] = false ∧
    (busyWith 0x00001031#32).pend = some 0x00001031#32 ∧ decode 0x00001031#32 = .ok (.tobytes 1) := by decide

theorem witness_ControlWritesTouchOnlyTheirBits : (0x00000003#32)[31] = false ∧ (0x7FFFFFFC#32)[31] = false ∧
    ctrlWritten 0x00000003#32 = ⟨true, true⟩ ∧ ctrlWritten 0x7FFFFFFC#32 = ⟨false, false⟩ := by decide

theorem witness_IobufWordsAreLittleEndian : (writeWord [] 13 0x7FFFFF80#32).wf = true ∧
    (State.reset.setIobuf (writeWord [] 13 0x7FFFFF80#32)).status.busy = false ∧
    (55 < 4 * (13 : Fin 14).val ∨ 4 * (13 : Fin 14).val + 4 ≤ 56) := by decide

/-- The two codec commands in flight, and another command. -/
theorem witness_IobufReadDuringCodecIsFree :
    ((busyWith 0x00000130#32).status.busy = true ∧ (busyWith 0x00000130#32).pend = some 0x00000130#32 ∧
      opField 0x00000130#32 = 0x30#8) ∧
    ((busyWith 0x00003031#32).pend = some 0x00003031#32 ∧ opField 0x00003031#32 = 0x31#8) ∧
    ((busyWith 0x00001221#32).pend = some 0x00001221#32 ∧ opField 0x00001221#32 ≠ 0x30#8 ∧
      opField 0x00001221#32 ≠ 0x31#8) := by decide

theorem witness_ResetClearsEverything : (0x80000003#32)[31] = true ∧
    (busyWith 0x00001221#32).status.busy = true := by decide

/-- The reset state with `rst_n` low and a move to come, for each kind of move. -/
theorem witness_NothingMovesInReset (m : Move) :
    ({ State.reset with rstN := false, agenda := [m] } : State).Inv ∧
    ({ State.reset with rstN := false, agenda := [m] } : State).rstN = false ∧
    ({ State.reset with rstN := false, agenda := [m] } : State).agenda = m :: [] := by
  refine ⟨⟨fun r => ?_, rfl, rfl, fun v hv => (by cases hv), ⟨fun _ => rfl, fun _ => rfl⟩,
    fun _ => rfl, fun _ => rfl⟩,
    rfl, rfl⟩
  change WR (State.reset.readFr r)
  rw [readFr_reset]
  decide

/-- The invariant with a command in flight and registers at the bound, and a step that answers. -/
theorem witness_StepKeepsTheInvariant : (placeCommand 0x00001221#32 (withReg 1 maxwr)).Inv ∧
    ∃ t, step (placeCommand 0x00001221#32 (withReg 1 maxwr)) = .next t :=
  ⟨inv_placed (by decide) 1 wr_maxwr, _, rfl⟩

/-- The invariant with a misaligned access to come, whose step faults. -/
theorem witness_OnlyBusErrorsStop :
    ((placeCommand 0x00001221#32 (withReg 1 maxwr)).setAgenda [.host (memRead 0x06)]).Inv ∧
    step ((placeCommand 0x00001221#32 (withReg 1 maxwr)).setAgenda [.host (memRead 0x06)]) =
      .fault .busError ∧ accessReg (memRead 0x06) = none := by
  refine ⟨inv_setAgenda (inv_placed (by decide) 1 wr_maxwr) rfl _, ?_, ?_⟩
  · simp [step, nextMove, doMove, placeCommand, releaseReset, acceptCommand, sampleCommand, hostAccess,
      accessReg_memRead, windowReg]
  · simp [accessReg_memRead, windowReg]

/-- A host access whose step answers, and a soft reset. -/
theorem witness_HostNeverWritesRegisters :
    (∃ t, step ((withReg 1 maxwr).setAgenda [.host (memRead 0x00)]) = .next t) ∧
    (∃ t, step ((withReg 1 maxwr).setAgenda [.host (memWrite 0x08 0x80000000#32)]) = .next t) ∧
    accessReg (memWrite 0x08 0x80000000#32) = some .ctrl ∧ (0x80000000#32)[31] = true := by
  exact ⟨⟨_, hostAccess_memRead (r := .cmd) (by decide) rfl (withReg 1 maxwr)⟩,
    ⟨_, hostAccess_memWrite (r := .ctrl) _ (by decide) rfl (withReg 1 maxwr)⟩,
    accessReg_memWrite 0x08 _ (by decide), by decide⟩

/-- FE.FROMBYTES of P sets NONCANON, which was 0. -/
theorem witness_OnlyFrombytesWritesNoncanon :
    ∃ t, step ((busyWith 0x00000130#32).setIobuf (writeBytes [] (bytesOf (2 ^ 448 - 2 ^ 224 - 1)))) =
      .next t ∧ t.status.noncanon = true ∧ State.reset.status.noncanon = false :=
  ⟨_, rfl, by decide +kernel, rfl⟩

/-- A recorded error, then: a second error, a STATUS write that clears it, a soft reset. -/
theorem witness_FirstErrorIsSticky :
    (writeCmd 0#32 State.reset).status.err = true ∧
    (∃ t, step ((writeCmd 0#32 State.reset).setAgenda [.host (memWrite 0x00 0x00121010#32)]) = .next t) ∧
    (∃ t, step ((writeCmd 0#32 State.reset).setAgenda [.host (memWrite 0x04 0x00000004#32)]) = .next t ∧
      t.status.err = false) ∧
    (∃ t, step ((writeCmd 0#32 State.reset).setAgenda [.host (memWrite 0x08 0x80000000#32)]) = .next t ∧
      t.status.err = false) :=
  ⟨by decide,
    ⟨_, hostAccess_memWrite (r := .cmd) _ (by decide) rfl (writeCmd 0#32 State.reset)⟩,
    ⟨_, hostAccess_memWrite (r := .status) _ (by decide) rfl (writeCmd 0#32 State.reset), rfl⟩,
    ⟨_, hostAccess_memWrite (r := .ctrl) _ (by decide) rfl (writeCmd 0#32 State.reset), rfl⟩⟩

/-- A completion, a rejection, the clearing of the sources and of the enables. -/
theorem witness_IrqFollowsDoneAndErr :
    (∃ t, exec (.copy 1 2) { State.reset with ctrl := ⟨true, true⟩ } = .next t ∧ irq t = true) ∧
    (State.reset.status.busy = false ∧ check 0x000000FF#32 ≠ .none ∧
      ∃ t, hostAccess (memWrite 0x00 0x000000FF#32) State.reset = .next t) ∧
    (∃ t, hostAccess (memWrite 0x04 0x00000006#32) State.reset = .next t) ∧
    (∃ t, hostAccess (memWrite 0x08 0x00000000#32) State.reset = .next t) :=
  ⟨⟨_, rfl, by decide⟩,
    ⟨by decide, by decide, _, hostAccess_memWrite (r := .cmd) _ (by decide) rfl _⟩,
    ⟨_, hostAccess_memWrite (r := .status) _ (by decide) rfl _⟩,
    ⟨_, hostAccess_memWrite (r := .ctrl) _ (by decide) rfl _⟩⟩

/-- An accepted command with orderly moves before the unit's step. -/
theorem witness_AcceptedCommandsComplete :
    ((placeCommand 0x00001221#32 (withReg 1 maxwr)).Inv) ∧
    (placeCommand 0x00001221#32 (withReg 1 maxwr)).rstN = true ∧
    (placeCommand 0x00001221#32 (withReg 1 maxwr)).pend = some 0x00001221#32 ∧
    (∀ m ∈ (placeCommand 0x00001221#32 (withReg 1 maxwr)).agenda, m.orderly = true) ∧
    (Move.host (memRead 0x04)).orderly = true ∧ (Move.host (memWrite 0x00 0#32)).orderly = true := by
  refine ⟨inv_placed (by decide) 1 wr_maxwr, rfl, rfl, by decide, ?_, ?_⟩
  · simp [Move.orderly, accessReg_memRead, windowReg]
  · simp [Move.orderly, accessReg_memWrite, windowReg]

/-- A run with an access before the unit's step, and one with nothing to do. -/
theorem witness_RunsEnd :
    ((placeCommand 0x00001221#32 (withReg 1 maxwr)).setAgenda [.host (memRead 0x04)]).Inv ∧
    ((placeCommand 0x00001221#32 (withReg 1 maxwr)).setAgenda [.host (memRead 0x04)]).rstN = true ∧
    (∀ m ∈ ((placeCommand 0x00001221#32 (withReg 1 maxwr)).setAgenda [.host (memRead 0x04)]).agenda,
      m.orderly = true) ∧ State.reset.RunOver := by
  refine ⟨inv_setAgenda (inv_placed (by decide) 1 wr_maxwr) rfl _, rfl, ?_, ⟨by simp [State.reset], rfl⟩⟩
  simp [Move.orderly, accessReg_memRead, windowReg]

/-- FE.TOBYTES in flight, its source ZERO in one state and PRIME in the other. -/
theorem witness_LimbsAreInvisibleToTheHost :
    (placeCommand 0x00001031#32 (withReg 1 zeroLimbs)).Inv ∧
    (placeCommand 0x00001031#32 (withReg 1 primeLimbs)).Inv ∧
    SameToHost (placeCommand 0x00001031#32 (withReg 1 zeroLimbs))
      (placeCommand 0x00001031#32 (withReg 1 primeLimbs)) ∧
    (placeCommand 0x00001031#32 (withReg 1 zeroLimbs)).readFr 1 ≠
      (placeCommand 0x00001031#32 (withReg 1 primeLimbs)).readFr 1 := by
  refine ⟨inv_placed (by decide) 1 (by decide), inv_placed (by decide) 1 wr_primeLimbs,
    ⟨by decide +kernel, rfl⟩, by decide⟩

/-- Two commands of one opcode. -/
theorem witness_TimeAndWorkFollowTheOpcode :
    (Instr.cswap 0 1 false).opcode = (Instr.cswap 14 15 true).opcode := by decide

end Sys2Proof.Tests
end

/-! ## A loop over sixteen lanes, and sixteen lanes as numbers -/

namespace Sys2Proof.Machine

/-- The invariant rule of a loop `for i in 0..n-1`: `Q k` holds after `k` passes. -/
theorem foldl_finRange_induction {β : Type} {n : Nat} {f : β → Fin n → β} (Q : Nat → β → Prop)
    {b : β} (h0 : Q 0 b) (hs : ∀ (i : Fin n) (b : β), Q i b → Q (i + 1) (f b i)) :
    Q n ((List.finRange n).foldl f b) := by
  induction n with
  | zero => exact h0
  | succ n ih =>
    rw [List.finRange_succ_last, List.foldl_append, List.foldl_map]
    exact hs (Fin.last n) _ (ih fun i b hb => hs i.castSucc b hb)

/-- `Σ f(i) · 2^(28i)`: the weights of rule R11, over any numbers. -/
def weigh {R : Type} [CommSemiring R] (f : Fin 16 → R) : R := ∑ i : Fin 16, f i * 2 ^ (28 * i.val)

theorem weigh_update {R : Type} [CommSemiring R] (f : Fin 16 → R) (i : Fin 16) (v : R) :
    weigh (Function.update f i v) + f i * 2 ^ (28 * i.val) = weigh f + v * 2 ^ (28 * i.val) := by
  have h : ∀ j ∈ Finset.univ.erase i, Function.update f i v j * 2 ^ (28 * j.val) =
      f j * 2 ^ (28 * j.val) := fun j hj => by
    rw [Function.update_of_ne (Finset.ne_of_mem_erase hj)]
  rw [weigh, weigh, ← Finset.add_sum_erase _ _ (Finset.mem_univ i),
    ← Finset.add_sum_erase _ (fun j => f j * 2 ^ (28 * j.val)) (Finset.mem_univ i),
    Finset.sum_congr rfl h, Function.update_self]
  ring

theorem weigh_mono {f g : Fin 16 → Nat} (h : ∀ i, f i ≤ g i) : weigh f ≤ weigh g :=
  Finset.sum_le_sum fun i _ => Nat.mul_le_mul_right _ (h i)

/-- Sixteen limbs of 28 ones are 2^448 - 1. -/
theorem weigh_ones : weigh (fun _ => 0x0FFFFFFF) + 1 = 2 ^ 448 := by
  have h : ∀ n : Nat, ∑ i : Fin n, 0x0FFFFFFF * 2 ^ (28 * i.val) + 1 = 2 ^ (28 * n) := by
    intro n
    induction n with
    | zero => rfl
    | succ n ih =>
      rw [Fin.sum_univ_castSucc, Fin.val_last, Nat.mul_succ, pow_add, ← ih]
      simp only [Fin.val_castSucc]
      omega
  exact (h 16).trans (by rw [show 28 * 16 = 448 from rfl])

/-- The lanes of a vector of words as natural numbers. -/
def nats {w : Nat} (x : Vec16 (BitVec w)) : Fin 16 → Nat := fun i => (x.lane i).toNat

theorem nats_apply {w : Nat} (x : Vec16 (BitVec w)) (i : Fin 16) : nats x i = (x.lane i).toNat := rfl

theorem val_eq_weigh (x : FE) : val x = weigh (nats x) := val_eq_sum x

theorem nats_setLane {w : Nat} (x : Vec16 (BitVec w)) (i : Fin 16) (v : BitVec w) :
    nats (x.setLane i v) = Function.update (nats x) i v.toNat := by
  funext j
  simp only [nats, Vec16.lane_setLane, Function.update_apply]
  split <;> rfl

/-! ## The circular carry chain, at both widths

The carry step of `reduce_fn` (rule R121) and that of `mul_fn`'s clean-up (rule R152) are one function
at two widths, and so are the two fold-backs. Each is followed on natural numbers, where nothing wraps. -/

/-- Lane `i` takes the carry of its predecessor, which is masked (rules R121, R152). -/
def carryInto {w : Nat} (y : Vec16 (BitVec w)) (i : Fin 16) : Vec16 (BitVec w) :=
  let y' := y.setLane i (y.lane i + (y.lane (i - 1) >>> 28))
  y'.setLane (i - 1) (y'.lane (i - 1) &&& BitVec.ofNat w 0x0FFFFFFF)

/-- The fold-back at HALF (rules R121, R152). -/
def foldHalf {w : Nat} (y : Vec16 (BitVec w)) : Vec16 (BitVec w) :=
  y.setLane 8 (y.lane 8 + (y.lane 15 >>> 28))

/-- The fold-back and the circular chain. -/
def carryClean {w : Nat} (y : Vec16 (BitVec w)) : Vec16 (BitVec w) :=
  lanes.foldl carryInto (foldHalf y)

theorem reduceFn_eq_carryClean (x : FE) : reduceFn x = carryClean x := rfl

theorem mulCleanup_eq_carryClean (acc : Accum) : mulCleanup acc = carryClean (carryInto acc 15) := rfl

/-- `carryInto` on numbers. -/
def natCarry (f : Fin 16 → Nat) (i : Fin 16) : Fin 16 → Nat :=
  Function.update (Function.update f i (f i + f (i - 1) / 2 ^ 28)) (i - 1) (f (i - 1) % 2 ^ 28)

theorem lane_pred_ne (i : Fin 16) : i - 1 ≠ i := by
  revert i; decide

theorem lane_pred_val {i : Fin 16} (hi : i ≠ 0) : (i - 1).val + 1 = i.val := by
  revert i; decide

/-- Where lane `i` does not wrap, `carryInto` is `natCarry`. -/
theorem nats_carryInto {w : Nat} (hw : 28 ≤ w) (y : Vec16 (BitVec w)) (i : Fin 16)
    (h : nats y i + nats y (i - 1) / 2 ^ 28 < 2 ^ w) :
    nats (carryInto y i) = natCarry (nats y) i := by
  have hm : 0x0FFFFFFF % 2 ^ w = 2 ^ 28 - 1 :=
    Nat.mod_eq_of_lt (Nat.lt_of_lt_of_le (by decide) (Nat.pow_le_pow_right (by decide) hw))
  simp only [nats_apply] at h
  rw [carryInto, nats_setLane, nats_setLane, Vec16.lane_setLane_ne _ _ (lane_pred_ne i), natCarry]
  simp only [BitVec.toNat_and, BitVec.toNat_add, BitVec.toNat_ushiftRight, BitVec.toNat_ofNat,
    Nat.shiftRight_eq_div_pow, hm, Nat.and_two_pow_sub_one_eq_mod, Nat.mod_eq_of_lt h, nats_apply]

/-- A carry keeps the weighted sum, apart from the wrap of lane 15 into lane 0. -/
theorem weigh_natCarry (f : Fin 16 → Nat) (i : Fin 16) :
    weigh (natCarry f i) + f (i - 1) / 2 ^ 28 * (2 ^ 28 * 2 ^ (28 * (i - 1).val)) =
      weigh f + f (i - 1) / 2 ^ 28 * 2 ^ (28 * i.val) := by
  have h1 := weigh_update f i (f i + f (i - 1) / 2 ^ 28)
  have h2 := weigh_update (Function.update f i (f i + f (i - 1) / 2 ^ 28)) (i - 1) (f (i - 1) % 2 ^ 28)
  rw [Function.update_of_ne (lane_pred_ne i)] at h2
  have hd : f (i - 1) = 2 ^ 28 * (f (i - 1) / 2 ^ 28) + f (i - 1) % 2 ^ 28 := (Nat.div_add_mod ..).symm
  rw [natCarry]
  generalize f (i - 1) / 2 ^ 28 = c at *
  generalize f (i - 1) % 2 ^ 28 = r at *
  rw [hd] at h2
  linarith

/-- A carry into any lane but 0 keeps the weighted sum. -/
theorem weigh_natCarry_of_ne_zero (f : Fin 16 → Nat) {i : Fin 16} (hi : i ≠ 0) :
    weigh (natCarry f i) = weigh f := by
  have hp : (2 : Nat) ^ 28 * 2 ^ (28 * (i - 1).val) = 2 ^ (28 * i.val) := by
    rw [← pow_add, ← lane_pred_val hi]; ring
  have h := weigh_natCarry f i
  rw [hp] at h
  exact Nat.add_right_cancel h

/-- What enters lane `k` in the circular chain. -/
def chainCarry (f : Fin 16 → Nat) : Nat → Nat
  | 0 => f 15 / 2 ^ 28
  | k + 1 => (f (Fin.ofNat 16 k) + chainCarry f k) / 2 ^ 28

/-- The lanes after `k` passes of the circular chain: those passed by are masked, the last one reached
holds its carry, lane 15 is masked by the first pass. -/
def chainAt (f : Fin 16 → Nat) (k : Nat) (j : Fin 16) : Nat :=
  if j.val + 1 < k then (f j + chainCarry f j) % 2 ^ 28
  else (if j = 15 ∧ 0 < k then f j % 2 ^ 28 else f j) + if j.val + 1 = k then chainCarry f j else 0

theorem chainAt_zero (f : Fin 16 → Nat) : chainAt f 0 = f := by
  funext j; simp [chainAt]

theorem chainCarry_val {i : Fin 16} (f : Fin 16 → Nat) (hi : i ≠ 0) :
    chainCarry f i = (f (i - 1) + chainCarry f (i - 1).val) / 2 ^ 28 := by
  rw [← lane_pred_val hi, chainCarry]
  simp

/-- Lane `i - 1` when the chain reaches lane `i`. -/
theorem chainAt_pred (f : Fin 16 → Nat) (i : Fin 16) :
    chainAt f i (i - 1) / 2 ^ 28 = chainCarry f i ∧
    chainAt f i (i - 1) % 2 ^ 28 = chainAt f (i + 1) (i - 1) := by
  by_cases hi : i = 0
  · subst hi
    rw [show (0 : Fin 16) - 1 = 15 from rfl]
    simp [chainAt, chainCarry]
  · have hv := lane_pred_val hi
    have h15 : i - 1 ≠ 15 := fun e => by
      rw [e] at hv
      exact absurd i.isLt (hv ▸ by decide)
    rw [chainCarry_val f hi]
    simp [chainAt, hv, h15]

/-- One pass of the circular chain. -/
theorem natCarry_chainAt (f : Fin 16 → Nat) (i : Fin 16) :
    natCarry (chainAt f i) i = chainAt f (i + 1) := by
  obtain ⟨hd, hm⟩ := chainAt_pred f i
  funext j
  rw [natCarry, hd, hm, Function.update_apply, Function.update_apply]
  by_cases hp : j = i - 1
  · rw [if_pos hp, hp]
  by_cases hi : j = i
  · subst hi
    rw [if_neg hp, if_pos rfl]
    by_cases e : j = 15 <;> simp [chainAt, e]
  · have hv : j.val ≠ i.val := fun e => hi (Fin.ext e)
    have h1 : j.val + 1 ≠ i.val := fun e => hp (Fin.ext (by
      have := lane_pred_val (i := i) (by rintro rfl; simp at e)
      omega))
    have h0 : j = 15 → 0 < i.val := fun e => Nat.pos_of_ne_zero fun hz => hp (by
      rw [e, show i = 0 from Fin.ext hz]; rfl)
    have h2 : j.val + 1 < i.val + 1 ↔ j.val + 1 < i.val := by omega
    have h3 : (j = 15 ∧ 0 < i.val + 1) ↔ (j = 15 ∧ 0 < i.val) := by simpa using h0
    rw [if_neg hp, if_neg hi, chainAt, chainAt, if_neg h1, if_neg (by omega : ¬j.val + 1 = i.val + 1)]
    simp only [h2, h3]

/-- Carries are at most `C` where no lane can pass on more. -/
theorem chainCarry_le {C : Nat} {f : Fin 16 → Nat} (h : ∀ j, f j + C < 2 ^ 28 * (C + 1)) :
    ∀ k, chainCarry f k ≤ C
  | 0 => by
    have := h 15
    rw [chainCarry]; omega
  | k + 1 => by
    have := h (Fin.ofNat 16 k)
    have := chainCarry_le h k
    rw [chainCarry]; omega

/-- No lane of the circular chain wraps. -/
def NoWrap (w : Nat) (f : Fin 16 → Nat) : Prop := ∀ j : Fin 16, f j + chainCarry f j < 2 ^ w

/-- Where no lane wraps the circular chain is `chainAt`. -/
theorem nats_chain {w : Nat} (hw : 28 ≤ w) (y : Vec16 (BitVec w)) (h : NoWrap w (nats y)) :
    nats (lanes.foldl carryInto y) = chainAt (nats y) 16 := by
  refine foldl_finRange_induction (fun k z => nats z = chainAt (nats y) k) (chainAt_zero _).symm ?_
  intro i z hz
  have hfit : nats z i + nats z (i - 1) / 2 ^ 28 < 2 ^ w := by
    rw [hz, (chainAt_pred (nats y) i).1]
    refine Nat.lt_of_le_of_lt (Nat.add_le_add_right ?_ _) (h i)
    rw [chainAt, if_neg (by omega), if_neg (by omega : ¬i.val + 1 = i.val)]
    split <;> omega
  rw [nats_carryInto hw z i hfit, hz, natCarry_chainAt]

/-- The circular chain takes `c · (2^448 - 1)` from the weighted sum, `c` the carry out of lane 15. -/
theorem weigh_chainAt (f : Fin 16 → Nat) :
    weigh (chainAt f 16) + f 15 / 2 ^ 28 * 2 ^ 448 = weigh f + f 15 / 2 ^ 28 := by
  have h : ∀ k : Fin 16, weigh (chainAt f (k + 1)) = weigh (chainAt f 1) := by
    intro k
    induction k using Fin.induction with
    | zero => rfl
    | succ k ih => rw [← natCarry_chainAt, weigh_natCarry_of_ne_zero _ (Fin.succ_ne_zero k)]; exact ih
  have h0 : chainAt f 1 = natCarry f 0 := by
    simpa [chainAt_zero] using (natCarry_chainAt f 0).symm
  have hw := weigh_natCarry f 0
  rw [show (0 : Fin 16) - 1 = 15 from rfl, ← pow_add, show 28 + 28 * (15 : Fin 16).val = 448 from rfl,
    Fin.val_zero, Nat.mul_zero, pow_zero, Nat.mul_one] at hw
  rw [show chainAt f 16 = chainAt f ((15 : Fin 16).val + 1) from rfl, h 15, h0, hw]

/-- Every lane but 15 leaves the chain masked. -/
theorem chainAt_lt (f : Fin 16 → Nat) {j : Fin 16} (hj : j ≠ 15) : chainAt f 16 j < 2 ^ 28 := by
  have : j.val ≠ 15 := fun e => hj (Fin.ext e)
  rw [chainAt, if_pos (by omega)]
  exact Nat.mod_lt _ (by decide)

theorem chainAt_last (f : Fin 16 → Nat) : chainAt f 16 15 = f 15 % 2 ^ 28 + chainCarry f 15 := by
  simp [chainAt]

/-- `foldHalf` on numbers. -/
def natFoldHalf (f : Fin 16 → Nat) : Fin 16 → Nat := Function.update f 8 (f 8 + f 15 / 2 ^ 28)

theorem natFoldHalf_of_ne (f : Fin 16 → Nat) {j : Fin 16} (hj : j ≠ 8) : natFoldHalf f j = f j :=
  Function.update_of_ne hj _ _

theorem natFoldHalf_eight (f : Fin 16 → Nat) : natFoldHalf f 8 = f 8 + f 15 / 2 ^ 28 :=
  Function.update_self _ _ _

theorem natFoldHalf_le (f : Fin 16 → Nat) (j : Fin 16) : natFoldHalf f j ≤ f j + f 15 / 2 ^ 28 := by
  by_cases hj : j = 8
  · rw [hj, natFoldHalf_eight]
  · rw [natFoldHalf_of_ne f hj]; omega

/-- The fold-back and the chain on numbers. -/
def natClean (f : Fin 16 → Nat) : Fin 16 → Nat := chainAt (natFoldHalf f) 16

/-- Where nothing wraps the fold-back and the chain are `natClean`. -/
theorem nats_carryClean {w : Nat} (hw : 28 ≤ w) (y : Vec16 (BitVec w))
    (h : NoWrap w (natFoldHalf (nats y))) : nats (carryClean y) = natClean (nats y) := by
  have h8 := Nat.lt_of_le_of_lt (Nat.le_add_right _ _) (h 8)
  rw [natFoldHalf_eight] at h8
  have hf : nats (foldHalf y) = natFoldHalf (nats y) := by
    rw [foldHalf, nats_setLane, natFoldHalf]
    simp only [nats_apply] at h8 ⊢
    rw [BitVec.toNat_add, BitVec.toNat_ushiftRight, Nat.shiftRight_eq_div_pow, Nat.mod_eq_of_lt h8]
  rw [carryClean, nats_chain hw _ (hf ▸ h), hf, natClean]

/-- The identity 2^448 ≡ 2^224 + 1 of rule R153, item 2. -/
theorem P_add : Config.P + 2 ^ 224 + 1 = 2 ^ 448 := by
  have h : (2 : Nat) ^ 224 < 2 ^ 448 := pow_lt_pow_right₀ (by decide) (by decide)
  rw [P_eq]
  generalize (2 : Nat) ^ 448 = X at *
  omega

/-- P is a little less than 2^448. -/
theorem P_bounds : 0 < Config.P ∧ 2 ^ 448 < 2 * Config.P ∧ 2 ^ 448 + 2 ^ 425 < 3 * Config.P := by
  have h : (2 : Nat) ^ 224 < 2 ^ 425 := pow_lt_pow_right₀ (by decide) (by decide)
  have hX : (2 : Nat) ^ 448 = 2 ^ 23 * 2 ^ 425 := by rw [← pow_add]
  have hP := P_add
  generalize (2 : Nat) ^ 448 = X at *
  generalize (2 : Nat) ^ 425 = Z at *
  omega

/-- The clean-up takes `c · P` from the weighted sum, `c` the carry out of lane 15. -/
theorem weigh_natClean (f : Fin 16 → Nat) :
    weigh (natClean f) + f 15 / 2 ^ 28 * Config.P = weigh f := by
  have h1 := weigh_chainAt (natFoldHalf f)
  have h2 : weigh (natFoldHalf f) + f 8 * 2 ^ 224 = weigh f + (f 8 + f 15 / 2 ^ 28) * 2 ^ 224 :=
    weigh_update f 8 (f 8 + f 15 / 2 ^ 28)
  have hP : f 15 / 2 ^ 28 * (Config.P + 2 ^ 224 + 1) = f 15 / 2 ^ 28 * 2 ^ 448 := by rw [P_add]
  rw [natFoldHalf_of_ne f (by decide)] at h1
  rw [natClean]
  generalize (2 : Nat) ^ 448 = X at *
  linarith

theorem natClean_lt (f : Fin 16 → Nat) {j : Fin 16} (hj : j ≠ 15) : natClean f j < 2 ^ 28 :=
  chainAt_lt _ hj

theorem natClean_last (f : Fin 16 → Nat) :
    natClean f 15 = f 15 % 2 ^ 28 + chainCarry (natFoldHalf f) 15 := by
  rw [natClean, chainAt_last, natFoldHalf_of_ne f (by decide)]

end Sys2Proof.Machine

/-! ## Field elements (rule R11) -/

namespace Sys2Proof.Machine

/-- The field element `x` denotes, in the ring of integers mod P (rule R11). -/
noncomputable def elt (x : FE) : ZMod Config.P := (val x : ZMod Config.P)

theorem elt_eq_iff {x y : FE} : elt x = elt y ↔ residue x = residue y :=
  ZMod.natCast_eq_natCast_iff' (val x) (val y) Config.P

theorem natCast_weigh {R : Type} [CommSemiring R] (f : Fin 16 → Nat) :
    ((weigh f : Nat) : R) = weigh fun i => (f i : R) := by
  rw [weigh, weigh, Nat.cast_sum]
  exact Finset.sum_congr rfl fun i _ => by rw [Nat.cast_mul, Nat.cast_pow, Nat.cast_ofNat]

theorem weigh_add {R : Type} [CommSemiring R] (f g : Fin 16 → R) :
    weigh (fun i => f i + g i) = weigh f + weigh g := by
  simp only [weigh, add_mul, Finset.sum_add_distrib]

theorem weigh_mul_left {R : Type} [CommSemiring R] (c : R) (f : Fin 16 → R) :
    weigh (fun i => c * f i) = c * weigh f := by
  simp only [weigh, Finset.mul_sum, mul_assoc]

/-- Numbers that differ by a multiple of P are one residue. -/
theorem natCast_add_mul_P (n c : Nat) : ((n + c * Config.P : Nat) : ZMod Config.P) = n := by
  rw [Nat.cast_add, Nat.cast_mul, ZMod.natCast_self, mul_zero, add_zero]

/-- The clean-up keeps the weighted sum mod P. -/
theorem natCast_weigh_natClean (f : Fin 16 → Nat) :
    ((weigh (natClean f) : Nat) : ZMod Config.P) = (weigh f : Nat) := by
  rw [← weigh_natClean f, natCast_add_mul_P]

/-! ## `reduce_fn` (rule R122) -/

/-- Limbs below 2^31 leave every carry of `reduce_fn` at most 16. -/
theorem reduce_carry_le {f : Fin 16 → Nat} (h : ∀ k, f k < 2 ^ 31) (k : Nat) :
    chainCarry (natFoldHalf f) k ≤ 16 :=
  chainCarry_le (fun j => by
    have := natFoldHalf_le f j
    have := h j
    have := h 15
    omega) k

theorem nats_reduceFn {x : FE} (h : ∀ k, nats x k < 2 ^ 31) : nats (reduceFn x) = natClean (nats x) := by
  rw [reduceFn_eq_carryClean]
  refine nats_carryClean (by decide) x fun j => ?_
  have := natFoldHalf_le (nats x) j
  have := reduce_carry_le h j
  have := h j
  have := h 15
  omega

theorem val_reduceFn {x : FE} (h : ∀ k, nats x k < 2 ^ 31) :
    val (reduceFn x) + nats x 15 / 2 ^ 28 * Config.P = val x := by
  rw [val_eq_weigh, val_eq_weigh, nats_reduceFn h, weigh_natClean]

/-- Weak reduction keeps the field element (rule R122, item 1). -/
theorem elt_reduceFn {x : FE} (h : ∀ k, nats x k < 2 ^ 31) : elt (reduceFn x) = elt x := by
  rw [elt, elt, ← val_reduceFn h, natCast_add_mul_P]

/-! ## Sums and differences (rules R150, R151) -/

theorem WR.nats_le {x : FE} (h : WR x) (k : Fin 16) : nats x k ≤ 0x1000001F := by
  obtain ⟨hlow, hlast⟩ := h
  by_cases hk : k = 15
  · rw [hk]; exact hlast
  · exact Nat.le_trans (hlow k hk) (by decide)

theorem elt_reduceFn_WR {x : FE} (h : WR x) : elt (reduceFn x) = elt x :=
  elt_reduceFn fun k => Nat.lt_of_le_of_lt (h.nats_le k) (by decide)

theorem nats_addLimbs {a b : FE} (ha : WR a) (hb : WR b) (k : Fin 16) :
    nats (addLimbs a b) k = nats a k + nats b k := by
  have h1 := ha.nats_le k
  have h2 := hb.nats_le k
  simp only [nats, addLimbs, Vec16.lane_build, BitVec.toNat_add] at *
  omega

/-- FE.ADD's result is the sum (rule R150). -/
theorem elt_add {a b : FE} (ha : WR a) (hb : WR b) :
    elt (reduceFn (addLimbs a b)) = elt a + elt b := by
  have hn := nats_addLimbs ha hb
  rw [elt_reduceFn, elt, val_eq_weigh, funext hn, weigh_add, ← val_eq_weigh, ← val_eq_weigh,
    Nat.cast_add]
  · rfl
  intro k
  have := ha.nats_le k
  have := hb.nats_le k
  rw [hn]; omega

theorem nats_primeLimbs : nats primeLimbs = Function.update (fun _ => 0x0FFFFFFF) 8 0x0FFFFFFE := by
  decide

theorem nats_primeLimbs_bounds (k : Fin 16) :
    0x0FFFFFFE ≤ nats primeLimbs k ∧ nats primeLimbs k ≤ 0x0FFFFFFF := by
  revert k; decide

theorem val_primeLimbs : val primeLimbs = Config.P := by
  have hu := weigh_update (fun _ : Fin 16 => (0x0FFFFFFF : Nat)) 8 0x0FFFFFFE
  rw [← nats_primeLimbs, ← val_eq_weigh, show 28 * (8 : Fin 16).val = 224 from rfl] at hu
  have h1 := weigh_ones
  rw [← P_add] at h1
  generalize val primeLimbs = V at *
  generalize weigh (fun _ : Fin 16 => (0x0FFFFFFF : Nat)) = W at *
  omega

/-- Twice PRIME keeps every limb of the difference from wrapping (rule R151). -/
theorem nats_subLimbs {a b : FE} (ha : WR a) (hb : WR b) (k : Fin 16) :
    nats (subLimbs a b) k + nats b k = nats a k + 2 * nats primeLimbs k := by
  have h1 := ha.nats_le k
  have h2 := hb.nats_le k
  have h3 := nats_primeLimbs_bounds k
  simp only [nats, subLimbs, Vec16.lane_build, BitVec.toNat_add, BitVec.toNat_sub,
    BitVec.toNat_mul, BitVec.toNat_ofNat] at *
  omega

/-- FE.SUB's result is the difference (rule R151). -/
theorem elt_sub {a b : FE} (ha : WR a) (hb : WR b) :
    elt (reduceFn (subLimbs a b)) = elt a - elt b := by
  have hn := nats_subLimbs ha hb
  have hv : val (subLimbs a b) + val b = val a + 2 * Config.P := by
    rw [← val_primeLimbs]
    simp only [val_eq_weigh]
    rw [← weigh_mul_left, ← weigh_add, ← weigh_add, funext hn]
  rw [elt_reduceFn, eq_sub_iff_add_eq]
  · rw [elt, elt, elt, ← Nat.cast_add, hv, natCast_add_mul_P]
  intro k
  have := ha.nats_le k
  have := (nats_primeLimbs_bounds k).2
  have := hn k
  omega

end Sys2Proof.Machine

/-! ## `canon_fn` (rule R124) -/

namespace Sys2Proof.Machine

/-- Sixteen tight limbs hold less than 2^448. -/
theorem weigh_lt {f : Fin 16 → Nat} (h : ∀ i, f i < 2 ^ 28) : weigh f < 2 ^ 448 := by
  have hm : weigh f ≤ weigh fun _ => 0x0FFFFFFF := weigh_mono fun i => Nat.le_pred_of_lt (h i)
  rw [← weigh_ones, Nat.lt_add_one_iff]
  exact hm

/-- The digits of a signed pass: lanes before `k` are done, the others still hold their `D`. -/
def passDigits (D : Fin 16 → Int) (k : Nat) (a : FE) (j : Fin 16) : Int :=
  if j.val < k then nats a j else D j

theorem passDigits_zero (D : Fin 16 → Int) (a : FE) : passDigits D 0 a = D := by
  funext j; simp [passDigits]

theorem passDigits_setLane (D : Fin 16 → Int) (a : FE) (i : Fin 16) (v : Limb) :
    passDigits D (i + 1) (a.setLane i v) = Function.update (passDigits D i a) i (v.toNat : Int) := by
  funext j
  rw [Function.update_apply, passDigits, passDigits, nats_setLane, Function.update_apply]
  by_cases hj : j = i
  · simp [hj]
  · have hv : j.val ≠ i.val := fun e => hj (Fin.ext e)
    simp only [if_neg hj, show j.val < i.val + 1 ↔ j.val < i.val by omega]

theorem toNat_ofInt_mod (n : Int) : ((BitVec.ofInt 32 (n % 2 ^ 28)).toNat : Int) = n % 2 ^ 28 := by
  rw [BitVec.toNat_ofInt]
  omega

/-- A signed 28-bit pass over digits `D` leaves tight limbs and a carry that together have the digits'
weighted sum (rule R123). -/
theorem signedPass_spec {d : FE → Fin 16 → Int} {D : Fin 16 → Int} {x : FE}
    (hd : ∀ a i, a.lane i = x.lane i → d a i = D i) :
    let r := lanes.foldl (signedStep d) (x, 0)
    (∀ i, nats r.1 i < 2 ^ 28) ∧ (val r.1 : Int) + r.2 * 2 ^ 448 = weigh D := by
  have key := foldl_finRange_induction (f := signedStep d) (b := (x, 0))
    (fun k ac => (∀ j : Fin 16, k ≤ j.val → ac.1.lane j = x.lane j) ∧
      (∀ j : Fin 16, j.val < k → nats ac.1 j < 2 ^ 28) ∧
      weigh (passDigits D k ac.1) + ac.2 * 2 ^ (28 * k) = weigh D)
    ⟨fun _ _ => rfl, fun _ h => absurd h (Nat.not_lt_zero _), by simp [passDigits_zero]⟩ ?_
  · obtain ⟨-, htight, hsum⟩ := key
    refine ⟨fun i => htight i i.isLt, ?_⟩
    rw [val_eq_weigh, natCast_weigh, ← hsum]
    congr 2
    funext j
    rw [passDigits, if_pos j.isLt]
    rfl
  rintro i ⟨a, c⟩ ⟨hrest, htight, hsum⟩
  have hdi : d a i = D i := hd a i (hrest i (Nat.le_refl _))
  simp only [signedStep, hdi]
  refine ⟨fun j hj => ?_, fun j hj => ?_, ?_⟩
  · rw [Vec16.lane_setLane_ne _ _ (fun e => by rw [e] at hj; omega)]
    exact hrest j (by omega)
  · rw [nats_setLane, Function.update_apply]
    split
    · have := toNat_ofInt_mod (c + D i)
      omega
    · next hji => exact htight j (by have : j.val ≠ i.val := fun e => hji (Fin.ext e); omega)
  · have hu := weigh_update (passDigits D i a) i ((c + D i) % 2 ^ 28)
    rw [show passDigits D i a i = D i by simp [passDigits]] at hu
    rw [passDigits_setLane, toNat_ofInt_mod, Int.shiftRight_eq_div_pow, Nat.cast_pow, Nat.cast_ofNat,
      show 28 * (i.val + 1) = 28 + 28 * i.val by ring, pow_add]
    have hdiv := Int.mul_ediv_add_emod (c + D i) (2 ^ 28)
    generalize (c + D i) / 2 ^ 28 = q at *
    generalize (c + D i) % 2 ^ 28 = r at *
    linear_combination hsum + hu + (2 : Int) ^ (28 * i.val) * hdiv

/-- The first loop's borrow and limbs (rule R123): `val a - P`, split at 2^448. -/
theorem subtractPrime_spec (a : FE) :
    (∀ i, nats (subtractPrime a).1 i < 2 ^ 28) ∧
    (val (subtractPrime a).1 : Int) + (subtractPrime a).2 * 2 ^ 448 = val a - Config.P := by
  have h := signedPass_spec (d := fun a i => (a.lane i).toNat - (primeLimbs.lane i).toNat)
    (D := fun i => (nats a i : Int) + -1 * nats primeLimbs i) (x := a)
    fun b i e => by simp only [e, nats_apply]; ring
  rw [weigh_add, weigh_mul_left, ← natCast_weigh, ← natCast_weigh, ← val_eq_weigh, ← val_eq_weigh,
    val_primeLimbs] at h
  exact ⟨h.1, h.2.trans (by ring)⟩

theorem val_lt_of_tight {x : FE} (h : ∀ i, nats x i < 2 ^ 28) : val x < 2 ^ 448 :=
  val_eq_weigh x ▸ weigh_lt h

/-- The second loop's limbs and value (rule R123). -/
theorem addBackPrime_spec (a : FE) (mask : Limb) :
    (∀ i, nats (addBackPrime a mask) i < 2 ^ 28) ∧
    val (addBackPrime a mask) =
      (val a + weigh fun i => (primeLimbs.lane i &&& mask).toNat) % 2 ^ 448 := by
  have h := signedPass_spec (d := fun a i => (a.lane i).toNat + (primeLimbs.lane i &&& mask).toNat)
    (D := fun i => (nats a i : Int) + ((primeLimbs.lane i &&& mask).toNat : Nat)) (x := a)
    fun b i e => by simp only [e, nats_apply]
  rw [weigh_add, ← natCast_weigh, ← natCast_weigh, ← val_eq_weigh] at h
  obtain ⟨htight, hsum⟩ := h
  refine ⟨htight, Int.ofNat_inj.1 ?_⟩
  rw [Int.natCast_mod, Nat.cast_add, ← hsum, Nat.cast_pow, Nat.cast_ofNat, Int.add_mul_emod_self_right,
    Int.emod_eq_of_lt (Int.natCast_nonneg _) (by exact_mod_cast val_lt_of_tight htight)]
  rfl

theorem val_addBackPrime_zero (a : FE) (h : val a < 2 ^ 448) : val (addBackPrime a 0#32) = val a := by
  rw [(addBackPrime_spec a 0#32).2]
  have h0 : (weigh fun i => (primeLimbs.lane i &&& 0#32).toNat) = 0 := by simp [weigh]
  rw [h0, Nat.add_zero, Nat.mod_eq_of_lt h]

theorem val_addBackPrime_ones (a : FE) :
    val (addBackPrime a (BitVec.ofInt 32 (-1))) = (val a + Config.P) % 2 ^ 448 := by
  rw [(addBackPrime_spec a _).2, ← val_primeLimbs, val_eq_weigh primeLimbs]
  have h1 : (fun i => (primeLimbs.lane i &&& BitVec.ofInt 32 (-1)).toNat) = nats primeLimbs := by
    funext i
    rw [show BitVec.ofInt 32 (-1) = BitVec.allOnes 32 by decide, BitVec.and_allOnes, nats_apply]
  rw [h1]

/-- The borrow of a difference within one modulus of zero. -/
theorem borrow_cases {a c X v : Int} (h : a + c * X = v) (h0 : 0 ≤ a) (hX : a < X) (hlo : -X ≤ v)
    (hhi : v < X) : c = 0 ∨ c = -1 := by
  have h1 : c < 1 := by by_contra hc; nlinarith
  have h2 : -2 < c := by by_contra hc; nlinarith
  omega

/-- A WR element is less than 2^448 + 2^425, limb 15 being at most 2^28 + 31. -/
theorem WR.val_lt {x : FE} (h : WR x) : val x < 2 ^ 448 + 2 ^ 425 := by
  have hu := weigh_update (fun _ : Fin 16 => (0x0FFFFFFF : Nat)) 15 0x1000001F
  rw [show 28 * (15 : Fin 16).val = 420 from rfl] at hu
  have hmax : val x ≤ weigh (Function.update (fun _ => 0x0FFFFFFF) 15 0x1000001F) := by
    rw [val_eq_weigh]
    refine weigh_mono fun k => ?_
    rw [Function.update_apply]
    split
    · next hk => rw [hk]; exact h.2
    · next hk => exact h.1 k hk
  have h1 := weigh_ones
  have h5 : (2 : Nat) ^ 425 = 2 ^ 5 * 2 ^ 420 := by rw [← pow_add]
  generalize (2 : Nat) ^ 448 = X at *
  generalize (2 : Nat) ^ 425 = Z at *
  generalize (2 : Nat) ^ 420 = V at *
  omega

/-- Weak reduction of a WR input leaves less than 2P (rule R122). -/
theorem val_reduceFn_lt {x : FE} (h : WR x) : val (reduceFn x) < 2 * Config.P := by
  have hr := val_reduceFn (x := x) fun k => Nat.lt_of_le_of_lt (h.nats_le k) (by decide)
  have hlast : nats x 15 ≤ 0x1000001F := h.2
  have hmax := h.val_lt
  obtain ⟨-, hP2, hP3⟩ := P_bounds
  obtain hc | hc : nats x 15 / 2 ^ 28 = 0 ∨ nats x 15 / 2 ^ 28 = 1 := by omega
  · have htight := val_lt_of_tight (x := x) fun i => by
      by_cases hi : i = 15
      · rw [hi]; omega
      · exact Nat.lt_of_le_of_lt (h.1 i hi) (by decide)
    rw [hc] at hr
    generalize (2 : Nat) ^ 448 = X at *
    omega
  · rw [hc] at hr
    generalize (2 : Nat) ^ 448 = X at *
    generalize (2 : Nat) ^ 425 = Z at *
    omega

/-- `canon_fn` gives the representative in `[0, P)` (rule R124). -/
theorem canonFn_spec {x : FE} (h : WR x) : Canonical (canonFn x) ∧ val (canonFn x) = residue x := by
  have hlt := val_reduceFn_lt h
  have hres : val (reduceFn x) % Config.P = residue x := elt_eq_iff.1 (elt_reduceFn_WR h)
  obtain ⟨htight, hsub⟩ := subtractPrime_spec (reduceFn x)
  have ha := val_lt_of_tight htight
  have hval : val (canonFn x) = val (reduceFn x) % Config.P := by
    have hP := P_add
    have hX : (2 : Int) ^ 448 = ((2 ^ 448 : Nat) : Int) := by rw [Nat.cast_pow, Nat.cast_ofNat]
    rw [hX] at hsub
    have hc := borrow_cases hsub (Int.natCast_nonneg _) (by exact_mod_cast ha) (by omega) (by omega)
    rw [canonFn]
    obtain hc | hc := hc <;> rw [hc] at hsub ⊢
    · rw [show BitVec.ofInt 32 0 = 0#32 from rfl, val_addBackPrime_zero _ ha,
        Nat.mod_eq_sub_mod (by omega), Nat.mod_eq_of_lt (by omega)]
      omega
    · have hw : val (subtractPrime (reduceFn x)).1 + Config.P = val (reduceFn x) + 2 ^ 448 := by omega
      rw [val_addBackPrime_ones, hw, Nat.add_mod_right, Nat.mod_eq_of_lt (by omega),
        Nat.mod_eq_of_lt (by omega)]
  rw [hres] at hval
  refine ⟨⟨fun k => Nat.le_pred_of_lt ((addBackPrime_spec _ _).1 k), ?_⟩, hval⟩
  rw [hval]
  exact Nat.mod_lt _ P_bounds.1
end Sys2Proof.Machine

/-! ## `mul_fn` (rules R152, R153) -/

namespace Sys2Proof.Machine

theorem fin_succ_sub_one (i : Fin 15) : i.succ - 1 = i.castSucc := by
  revert i; decide

/-- Every lane moved up by one, lane 15 into lane 0. -/
theorem weigh_rotate (g : Fin 16 → Nat) :
    weigh (fun m => g (m - 1)) + g 15 * 2 ^ 448 = 2 ^ 28 * weigh g + g 15 := by
  have hup := Fin.sum_univ_succ fun m : Fin 16 => g (m - 1) * 2 ^ (28 * m.val)
  have hall := Fin.sum_univ_castSucc fun m : Fin 16 => g m * 2 ^ (28 * m.val)
  rw [weigh, hup, weigh, hall, Nat.mul_add, Finset.mul_sum]
  have hterm : ∀ i : Fin 15, g (i.succ - 1) * 2 ^ (28 * i.succ.val) =
      2 ^ 28 * (g i.castSucc * 2 ^ (28 * i.castSucc.val)) := fun i => by
    rw [fin_succ_sub_one, Fin.val_succ, Fin.val_castSucc, Nat.mul_succ, pow_add]; ring
  have hlast : 2 ^ 28 * (g (Fin.last 15) * 2 ^ (28 * (Fin.last 15).val)) = g 15 * 2 ^ 448 := by
    rw [Nat.mul_left_comm, ← pow_add, show Fin.last 15 = (15 : Fin 16) from rfl,
      show 28 + 28 * (15 : Fin 16).val = 448 from rfl]
  rw [Finset.sum_congr rfl fun i _ => hterm i, hlast, show (0 : Fin 16) - 1 = 15 from rfl,
    Fin.val_zero, Nat.mul_zero, pow_zero, Nat.mul_one]
  omega

/-- The lanes times 2^28: each moved up by one, lane 15 into lanes 0 and 8, as 2^448 ≡ 2^224 + 1. -/
def mulX (g : Fin 16 → Nat) : Fin 16 → Nat :=
  Function.update (fun m => g (m - 1)) 8 (g 7 + g 15)

theorem natCast_weigh_mulX (g : Fin 16 → Nat) :
    ((weigh (mulX g) : Nat) : ZMod Config.P) = 2 ^ 28 * (weigh g : Nat) := by
  have hu : weigh (mulX g) + g 7 * 2 ^ 224 = weigh (fun m => g (m - 1)) + (g 7 + g 15) * 2 ^ 224 :=
    weigh_update (fun m => g (m - 1)) 8 (g 7 + g 15)
  have hr := weigh_rotate g
  have hP : g 15 * (Config.P + 2 ^ 224 + 1) = g 15 * 2 ^ 448 := by rw [P_add]
  have h : weigh (mulX g) + g 15 * Config.P = 2 ^ 28 * weigh g := by
    generalize (2 : Nat) ^ 448 = X at *
    linarith
  rw [← natCast_add_mul_P, h, Nat.cast_mul, Nat.cast_pow, Nat.cast_ofNat]

/-- The operand before row `i`, turned so that lane `m` is the factor of slot `m` (rule R152): the
operand times 2^(28i). -/
def turned (f : Fin 16 → Nat) (i : Nat) : Fin 16 → Nat := mulX^[i] f

theorem turned_succ (f : Fin 16 → Nat) (i : Nat) : turned f (i + 1) = mulX (turned f i) :=
  Function.iterate_succ_apply' mulX i f

theorem natCast_weigh_turned (f : Fin 16 → Nat) :
    ∀ i, ((weigh (turned f i) : Nat) : ZMod Config.P) = 2 ^ (28 * i) * (weigh f : Nat)
  | 0 => by rw [Nat.mul_zero, pow_zero, one_mul]; rfl
  | i + 1 => by
    rw [turned_succ, natCast_weigh_mulX, natCast_weigh_turned f i, Nat.mul_succ, pow_add]
    ring

/-- How often a limb of the operand can be counted in a lane of the turned operand. -/
def rowWeight (i : Nat) : Fin 16 → Nat := turned (fun _ => 1) i

theorem mulX_le {g h : Fin 16 → Nat} {L : Nat} (hg : ∀ m, g m ≤ h m * L) (m : Fin 16) :
    mulX g m ≤ mulX h m * L := by
  rw [mulX, mulX, Function.update_apply, Function.update_apply]
  split
  · rw [Nat.add_mul]; exact Nat.add_le_add (hg 7) (hg 15)
  · exact hg (m - 1)

theorem turned_le {f : Fin 16 → Nat} {L : Nat} (hf : ∀ m, f m ≤ L) :
    ∀ (i : Nat) (m : Fin 16), turned f i m ≤ rowWeight i m * L
  | 0, m => by simpa [turned, rowWeight] using hf m
  | i + 1, m => by
    rw [rowWeight, turned_succ, turned_succ]
    exact mulX_le (turned_le hf i) m

theorem rowWeight_le (i : Fin 17) (m : Fin 16) : rowWeight i m ≤ 3 := by
  revert i m; decide

/-- The slots after `k` rows (rule R152). -/
def slots (f g : Fin 16 → Nat) (k : Nat) (m : Fin 16) : Nat :=
  ∑ i ∈ Finset.range k, g (Fin.ofNat 16 i) * turned f i m

theorem slots_succ (f g : Fin 16 → Nat) (i : Fin 16) (m : Fin 16) :
    slots f g (i + 1) m = slots f g i m + g i * turned f i m := by
  rw [slots, Finset.sum_range_succ, Fin.ofNat_val_eq_self, slots]

theorem slots_mono (f g : Fin 16 → Nat) {k l : Nat} (h : k ≤ l) (m : Fin 16) :
    slots f g k m ≤ slots f g l m :=
  Finset.sum_le_sum_of_subset (Finset.range_mono h)

/-- The product of the weighted sums, mod P. -/
theorem natCast_weigh_slots (f g : Fin 16 → Nat) :
    ((weigh (slots f g 16) : Nat) : ZMod Config.P) = (weigh f : Nat) * (weigh g : Nat) := by
  have h : ∀ k : Nat, ((weigh (slots f g k) : Nat) : ZMod Config.P) =
      (weigh f : Nat) * ∑ i ∈ Finset.range k, (g (Fin.ofNat 16 i) : ZMod Config.P) * 2 ^ (28 * i) := by
    intro k
    induction k with
    | zero => simp only [slots, Finset.range_zero, Finset.sum_empty, weigh, Nat.zero_mul,
        Finset.sum_const_zero, Nat.cast_zero, mul_zero]
    | succ k ih =>
      have hs : weigh (slots f g (k + 1)) =
          weigh (slots f g k) + g (Fin.ofNat 16 k) * weigh (turned f k) := by
        rw [← weigh_mul_left, ← weigh_add]
        congr 1; funext m
        rw [slots, Finset.sum_range_succ, slots]
      rw [hs, Nat.cast_add, Nat.cast_mul, ih, natCast_weigh_turned, Finset.sum_range_succ]
      ring
  rw [h 16, natCast_weigh g, Finset.sum_range]
  simp only [Fin.ofNat_val_eq_self, weigh]

/-- The limb products counted in slot `m` (41_arithmetic.md rule R153). -/
def slotWeight (m : Fin 16) : Nat := ∑ i ∈ Finset.range 16, rowWeight i m

theorem slots_le {f g : Fin 16 → Nat} {L : Nat} (hf : ∀ m, f m ≤ L) (hg : ∀ m, g m ≤ L) (m : Fin 16) :
    slots f g 16 m ≤ slotWeight m * (L * L) := by
  rw [slotWeight, Finset.sum_mul]
  refine Finset.sum_le_sum fun i _ => ?_
  calc g (Fin.ofNat 16 i) * turned f i m ≤ L * (rowWeight i m * L) :=
        Nat.mul_le_mul (hg _) (turned_le hf i m)
    _ = rowWeight i m * (L * L) := by ring

theorem slotWeight_le (m : Fin 16) : slotWeight m ≤ 38 ∧ (m ≠ 8 → slotWeight m ≤ 36) := by
  revert m; decide

/-- One product adds to its slot and to no other. -/
theorem nats_mulTerm {bi : Limb} {aa : FE} {i j : Fin 16} {acc : Accum}
    (h : nats acc (i + j) + bi.toNat * nats aa j < 2 ^ 64) :
    nats (mulTerm bi aa i acc j) =
      Function.update (nats acc) (i + j) (nats acc (i + j) + bi.toNat * nats aa j) := by
  have h32 : ∀ x : Limb, x.toNat % 2 ^ 64 = x.toNat := fun x =>
    Nat.mod_eq_of_lt (Nat.lt_trans x.isLt (by decide))
  simp only [nats_apply] at h
  rw [mulTerm, nats_setLane]
  simp only [BitVec.toNat_add, BitVec.toNat_mul, BitVec.toNat_setWidth, h32, nats_apply]
  rw [Nat.mod_eq_of_lt (Nat.lt_of_le_of_lt (Nat.le_add_left _ _) h), Nat.mod_eq_of_lt h]

/-- A row adds to every slot its product, the operand turned as `g` (rule R152). -/
theorem nats_row {bi : Limb} {aa : FE} {i : Fin 16} {acc : Accum} {g : Fin 16 → Nat}
    (hg : ∀ j, nats aa j = g (i + j)) (h : ∀ m, nats acc m + bi.toNat * g m < 2 ^ 64) (m : Fin 16) :
    nats (lanes.foldl (mulTerm bi aa i) acc) m = nats acc m + bi.toNat * g m := by
  have key := foldl_finRange_induction (f := mulTerm bi aa i) (b := acc)
    (fun k z => ∀ j : Fin 16, nats z (i + j) =
      nats acc (i + j) + if j.val < k then bi.toNat * g (i + j) else 0)
    (fun j => by simp) ?_
  · have hm := key (m - i)
    rwa [if_pos (m - i).isLt, add_sub_cancel] at hm
  intro j z hz j'
  have hj := hz j
  rw [if_neg (Nat.lt_irrefl _), Nat.add_zero] at hj
  rw [nats_mulTerm (by rw [hj, hg]; exact h (i + j)), Function.update_apply, hj, hg]
  by_cases e : j' = j
  · simp [e]
  · have hv : j'.val ≠ j.val := fun c => e (Fin.ext c)
    rw [if_neg (fun c => e (add_left_cancel c)), hz j']
    simp only [show j'.val < j.val + 1 ↔ j'.val < j.val by omega]

/-- The folded limb is the factor of slot 7, the limb added to it that of slot 15, and the next row turns
it to slot 8. -/
theorem fold_index (i j : Fin 16) :
    i + ((15 - i) ^^^ 8) = 7 ∧ (j = (15 - i) ^^^ 8 ↔ i + 1 + j = 8) := by
  revert i j; decide

/-- The fold turns the operand on by one lane (rule R152). -/
theorem nats_mulFold {aa : FE} {i : Fin 16} {g : Fin 16 → Nat} (hg : ∀ j, nats aa j = g (i + j))
    (h : mulX g 8 < 2 ^ 32) (j : Fin 16) : nats (mulFold aa i) j = mulX g (i + 1 + j) := by
  have hlow := hg ((15 - i) ^^^ 8)
  have hhigh := hg (15 - i)
  have hp : i + 1 + j - 1 = i + j := by rw [add_right_comm, add_sub_cancel_right]
  rw [(fold_index i j).1] at hlow
  rw [add_sub_cancel i 15] at hhigh
  rw [mulX, Function.update_self] at h
  rw [mulFold, nats_setLane, mulX, Function.update_apply, Function.update_apply, hp, ← hg]
  simp only [(fold_index i j).2]
  split
  · rw [BitVec.toNat_add, ← nats_apply, ← nats_apply, hlow, hhigh, Nat.mod_eq_of_lt h]
  · rfl

/-- The largest limb with which nothing wraps (rule R153, item 1). -/
abbrev mulBound : Nat := 0x298757D1

/-- The accumulator after the double loop: with limbs up to the bound no slot wraps (rule R153, item 1). -/
theorem nats_mulRows {a b : FE} (ha : ∀ k, nats a k ≤ mulBound) (hb : ∀ k, nats b k ≤ mulBound) :
    nats (mulRows a b) = slots (nats a) (nats b) 16 := by
  have key := foldl_finRange_induction (f := mulRow b) (b := (a, Vec16.build fun _ => 0#64))
    (fun k st => (∀ j, nats st.1 j = turned (nats a) k (Fin.ofNat 16 k + j)) ∧
      nats st.2 = slots (nats a) (nats b) k)
    ⟨fun j => by simp [turned], by funext m; simp [nats, slots]⟩ ?_
  · exact key.2
  rintro i ⟨aa, acc⟩ ⟨haa, hacc⟩
  rw [Fin.ofNat_val_eq_self] at haa
  have hrow := turned_succ (nats a) i
  have hnext : Fin.ofNat 16 (i.val + 1) = i + 1 := by
    clear * -; revert i; decide
  refine ⟨fun j => ?_, ?_⟩
  · rw [hrow, hnext]
    refine nats_mulFold haa ?_ j
    have h1 := turned_le ha (i + 1) 8
    have h2 := rowWeight_le i.succ 8
    rw [hrow] at h1
    rw [Fin.val_succ] at h2
    exact Nat.lt_of_le_of_lt (h1.trans (Nat.mul_le_mul_right mulBound h2)) (by decide)
  · funext m
    have hsum := slots_succ (nats a) (nats b) i
    rw [hsum, ← hacc]
    refine nats_row haa (fun m => ?_) m
    rw [hacc]
    refine Nat.lt_of_le_of_lt (Nat.le_trans (Nat.le_of_eq (hsum m).symm)
      (Nat.le_trans (slots_mono _ _ (by omega) m) (slots_le ha hb m))) ?_
    exact Nat.lt_of_le_of_lt (Nat.mul_le_mul_right (mulBound * mulBound) (slotWeight_le m).1)
      (by decide)

/-! ### The clean-up -/

/-- A bound on the slots by the products counted in each (rule R153). -/
def SlotsBelow (B : Nat) (S : Fin 16 → Nat) : Prop := ∀ m, S m ≤ slotWeight m * B

theorem natCarry_last (S : Fin 16 → Nat) :
    natCarry S 15 14 < 2 ^ 28 ∧ natCarry S 15 15 = S 15 + S 14 / 2 ^ 28 ∧
    ∀ m, m ≠ 14 → m ≠ 15 → natCarry S 15 m = S m := by
  rw [natCarry, show (15 : Fin 16) - 1 = 14 from rfl]
  refine ⟨?_, ?_, fun m h14 h15 => ?_⟩
  · rw [Function.update_self]; exact Nat.mod_lt _ (by decide)
  · rw [Function.update_of_ne (by decide), Function.update_self]
  · rw [Function.update_of_ne h14, Function.update_of_ne h15]

/-- The slots as the circular chain of the clean-up finds them. -/
def chained (S : Fin 16 → Nat) : Fin 16 → Nat := natFoldHalf (natCarry S 15)

theorem chained_of_ne (S : Fin 16 → Nat) {m : Fin 16} (h8 : m ≠ 8) (h14 : m ≠ 14) (h15 : m ≠ 15) :
    chained S m = S m := by
  obtain ⟨-, -, hother⟩ := natCarry_last S
  rw [chained, natFoldHalf_of_ne _ h8, hother m h14 h15]

theorem chained_fourteen_lt (S : Fin 16 → Nat) : chained S 14 < 2 ^ 28 := by
  obtain ⟨h14, -, -⟩ := natCarry_last S
  rw [chained, natFoldHalf_of_ne _ (by decide)]
  exact h14

theorem chained_fifteen (S : Fin 16 → Nat) : chained S 15 = S 15 + S 14 / 2 ^ 28 := by
  obtain ⟨-, h15, -⟩ := natCarry_last S
  rw [chained, natFoldHalf_of_ne _ (by decide), h15]

theorem chained_eight (S : Fin 16 → Nat) : chained S 8 = S 8 + chained S 15 / 2 ^ 28 := by
  obtain ⟨-, -, hother⟩ := natCarry_last S
  rw [chained, natFoldHalf_eight, natFoldHalf_of_ne _ (by decide), hother 8 (by decide) (by decide)]

/-- Room in the slots the chain finds (rule R153, item 1). -/
theorem chained_room {S : Fin 16 → Nat} (hS : SlotsBelow (mulBound * mulBound) S) :
    chained S 8 + 7 * 2 ^ 32 < 2 ^ 64 ∧ ∀ m, m ≠ 8 → chained S m + 2 ^ 37 < 2 ^ 64 := by
  have hS8 : S 8 ≤ 38 * 485440631474075809 := (hS 8).trans (by decide)
  have hS14 : S 14 ≤ 26 * 485440631474075809 := (hS 14).trans (by decide)
  have hS15 : S 15 ≤ 24 * 485440631474075809 := (hS 15).trans (by decide)
  have h8 := chained_eight S
  have h14 := chained_fourteen_lt S
  have h15 := chained_fifteen S
  refine ⟨by omega, fun m hm => ?_⟩
  by_cases e14 : m = 14
  · rw [e14]; omega
  by_cases e15 : m = 15
  · rw [e15]; omega
  have hSm : S m ≤ 36 * 485440631474075809 :=
    (hS m).trans (Nat.mul_le_mul_right (mulBound * mulBound) ((slotWeight_le m).2 hm))
  rw [chained_of_ne S hm e14 e15]
  omega

theorem chained_carry_le {S : Fin 16 → Nat} (hS : SlotsBelow (mulBound * mulBound) S) (k : Nat) :
    chainCarry (chained S) k ≤ 2 ^ 37 := by
  obtain ⟨h8, hother⟩ := chained_room hS
  refine chainCarry_le (fun j => ?_) k
  by_cases hj : j = 8
  · rw [hj]; omega
  · have := hother j hj
    omega

/-- The clean-up wraps no slot (rule R153, item 1). -/
theorem chained_noWrap {S : Fin 16 → Nat} (hS : SlotsBelow (mulBound * mulBound) S) :
    NoWrap 64 (chained S) := by
  obtain ⟨h8, hother⟩ := chained_room hS
  intro j
  by_cases hj : j = 8
  · have hc : chainCarry (chained S) 8 = (chained S 7 + chainCarry (chained S) 7) / 2 ^ 28 := rfl
    have h7 := chained_carry_le hS 7
    have hS7 : S 7 ≤ 16 * 485440631474075809 := (hS 7).trans (by decide)
    rw [← chained_of_ne S (by decide) (by decide) (by decide)] at hS7
    rw [hj, show (8 : Fin 16).val = 8 from rfl, hc]
    omega
  · have := hother j hj
    have := chained_carry_le hS j
    omega

/-- `mul_fn`'s clean-up on numbers. -/
theorem nats_mulCleanup {acc : Accum} (hS : SlotsBelow (mulBound * mulBound) (nats acc)) :
    nats (mulCleanup acc) = natClean (natCarry (nats acc) 15) := by
  have h15 := (chained_room hS).2 15 (by decide)
  rw [chained_fifteen] at h15
  have hc := nats_carryInto (by decide) acc 15 (Nat.lt_of_le_of_lt (Nat.le_add_right _ _) h15)
  have hw := chained_noWrap hS
  rw [chained, ← hc] at hw
  rw [mulCleanup_eq_carryClean, nats_carryClean (by decide) _ hw, hc]

/-- The last slot after the clean-up. -/
theorem natClean_chained_last (S : Fin 16 → Nat) : natClean (natCarry S 15) 15 =
    chained S 15 % 2 ^ 28 + (chained S 14 + chainCarry (chained S) 14) / 2 ^ 28 := by
  rw [natClean_last, chained, natFoldHalf_of_ne _ (by decide : (15 : Fin 16) ≠ 8)]
  rfl

/-- `mul_fn` on numbers: with limbs up to the bound nothing is cut off (rule R153, item 1). -/
theorem nats_mulFn {a b : FE} (ha : ∀ k, nats a k ≤ mulBound) (hb : ∀ k, nats b k ≤ mulBound) :
    nats (mulFn a b) = natClean (natCarry (slots (nats a) (nats b) 16) 15) := by
  have hrows := nats_mulRows ha hb
  have hS : SlotsBelow (mulBound * mulBound) (nats (mulRows a b)) := hrows ▸ slots_le ha hb
  have hfit : ∀ j, nats (mulCleanup (mulRows a b)) j < 2 ^ 32 := fun j => by
    rw [nats_mulCleanup hS]
    by_cases hj : j = 15
    · have := chained_carry_le hS 14
      have := chained_fourteen_lt (nats (mulRows a b))
      rw [hj, natClean_chained_last]
      omega
    · exact Nat.lt_trans (natClean_lt _ hj) (by decide)
  rw [← hrows, ← nats_mulCleanup hS]
  funext j
  rw [nats_apply, mulFn, Vec16.lane_build, BitVec.toNat_setWidth]
  exact Nat.mod_eq_of_lt (hfit j)

/-- `mul_fn` multiplies field elements (rule R153, item 2, and its bound of item 1). -/
theorem elt_mulFn {a b : FE} (ha : ∀ k, nats a k ≤ mulBound) (hb : ∀ k, nats b k ≤ mulBound) :
    elt (mulFn a b) = elt a * elt b := by
  rw [elt, val_eq_weigh, nats_mulFn ha hb, natCast_weigh_natClean,
    weigh_natCarry_of_ne_zero _ (by decide), natCast_weigh_slots, ← val_eq_weigh, ← val_eq_weigh, elt, elt]

theorem WR.le_mulBound {x : FE} (h : WR x) (k : Fin 16) : nats x k ≤ mulBound :=
  (h.nats_le k).trans (by decide)

theorem elt_mulFn_WR {a b : FE} (ha : WR a) (hb : WR b) : elt (mulFn a b) = elt a * elt b :=
  elt_mulFn ha.le_mulBound hb.le_mulBound

/-- On WR inputs limb 15 of a product is at most 2^28 + 28 (rule R153, item 3). -/
theorem mulFn_last_le {a b : FE} (ha : WR a) (hb : WR b) : nats (mulFn a b) 15 ≤ 2 ^ 28 + 28 := by
  rw [nats_mulFn ha.le_mulBound hb.le_mulBound, natClean_chained_last]
  have hS13 : slots (nats a) (nats b) 16 13 ≤ 28 * 72057610680927169 :=
    (slots_le ha.nats_le hb.nats_le 13).trans (by decide)
  have hc13 := chained_carry_le (slots_le ha.le_mulBound hb.le_mulBound) 13
  have h14 := chained_fourteen_lt (slots (nats a) (nats b) 16)
  generalize slots (nats a) (nats b) 16 = S at *
  have hc : chainCarry (chained S) 14 = (chained S 13 + chainCarry (chained S) 13) / 2 ^ 28 := rfl
  rw [hc, chained_of_ne S (m := 13) (by decide) (by decide) (by decide)]
  omega

/-- `mul_fn` is closed on WR (rule R153, item 3). -/
theorem mulFn_WR {a b : FE} (ha : WR a) (hb : WR b) : WR (mulFn a b) := by
  refine ⟨fun k hk => ?_, (mulFn_last_le ha hb).trans (by decide)⟩
  rw [← nats_apply, nats_mulFn ha.le_mulBound hb.le_mulBound]
  exact Nat.le_pred_of_lt (natClean_lt _ hk)

end Sys2Proof.Machine

/-! ## The inversion engine and the commands on field elements -/

namespace Sys2Proof.Machine

section ChainMap
variable {α β : Type} {mul : α → α → α} {mul' : β → β → β} {f : α → β} {S : α → Prop}

/-- A map that carries one multiplication to another on a closed set. -/
def CarriesMul (f : α → β) (S : α → Prop) (mul : α → α → α) (mul' : β → β → β) : Prop :=
  ∀ a b, S a → S b → S (mul a b) ∧ f (mul a b) = mul' (f a) (f b)

theorem squareTimes_map (h : CarriesMul f S mul mul') :
    ∀ n a, S a → S (squareTimes mul n a) ∧ f (squareTimes mul n a) = squareTimes mul' n (f a)
  | 0, _, ha => ⟨ha, rfl⟩
  | n + 1, a, ha => by
    obtain ⟨hs, hf⟩ := h a a ha ha
    rw [squareTimes_succ, squareTimes_succ, ← hf]
    exact squareTimes_map h n _ hs

/-- The images of the chain registers. -/
def ChainRegs.map (f : α → β) (r : ChainRegs α) : ChainRegs β := ⟨f r.a, f r.b, f r.c⟩

/-- Every chain register lies in `S`. -/
def ChainRegs.All (S : α → Prop) (r : ChainRegs α) : Prop := S r.a ∧ S r.b ∧ S r.c

theorem chainRead_map {x : α} {r : ChainRegs α} (hx : S x) (hr : r.All S) (m : ChainSrc) :
    S (chainRead x r m) ∧ f (chainRead x r m) = chainRead (f x) (r.map f) m := by
  obtain ⟨ha, hb, -⟩ := hr
  cases m with
  | x => exact ⟨hx, rfl⟩
  | a => exact ⟨ha, rfl⟩
  | b => exact ⟨hb, rfl⟩

theorem chainStage_map (h : CarriesMul f S mul mul') {x : α} {r : ChainRegs α} (hx : S x)
    (hr : r.All S) (g : ChainRow) : (chainStage mul x r g).All S ∧
      (chainStage mul x r g).map f = chainStage mul' (f x) (r.map f) g := by
  obtain ⟨hm, hfm⟩ := chainRead_map (f := f) hx hr g.src
  obtain ⟨ha, hb, hc⟩ := hr
  obtain ⟨hy, hfy⟩ := h _ _ hm hc
  obtain ⟨hq, hfq⟩ := squareTimes_map h g.squarings _ hy
  rw [hfm] at hfy
  rw [hfy] at hfq
  simp only [chainStage]
  cases g.dst with
  | a => exact ⟨⟨hy, hb, hq⟩, by simp only [ChainRegs.map, hfy, hfq]⟩
  | b => exact ⟨⟨ha, hy, hq⟩, by simp only [ChainRegs.map, hfy, hfq]⟩

theorem chain_map (h : CarriesMul f S mul mul') {x : α} (hx : S x) :
    ∀ (c : List ChainRow) (r : ChainRegs α), r.All S → (c.foldl (chainStage mul x) r).All S ∧
      (c.foldl (chainStage mul x) r).map f = c.foldl (chainStage mul' (f x)) (r.map f)
  | [], _, hr => ⟨hr, rfl⟩
  | g :: c, r, hr => by
    obtain ⟨hs, hm⟩ := chainStage_map h hx hr g
    rw [List.foldl_cons, List.foldl_cons, ← hm]
    exact chain_map h hx c _ hs

/-- The chain over one multiplication is the chain over the other (rule R202). -/
theorem isqrtChain_map (h : CarriesMul f S mul mul') {a0 b0 x : α} (ha : S a0) (hb : S b0) (hx : S x) :
    S (isqrtChain mul a0 b0 x) ∧ f (isqrtChain mul a0 b0 x) = isqrtChain mul' (f a0) (f b0) (f x) := by
  obtain ⟨hxx, hfxx⟩ := h x x hx hx
  obtain ⟨⟨hra, -, hrc⟩, hmap⟩ := chain_map h hx chain ⟨a0, b0, mul x x⟩ ⟨ha, hb, hxx⟩
  obtain ⟨hs, hf⟩ := h _ _ hra hrc
  refine ⟨hs, hf.trans ?_⟩
  rw [isqrtChain, ← hfxx]
  change _ = mul' (chain.foldl (chainStage mul' (f x)) (ChainRegs.map f ⟨a0, b0, mul x x⟩)).a
    (chain.foldl (chainStage mul' (f x)) (ChainRegs.map f ⟨a0, b0, mul x x⟩)).c
  rw [← hmap]
  rfl

theorem invChain_map (h : CarriesMul f S mul mul') {a0 b0 x : α} (ha : S a0) (hb : S b0) (hx : S x) :
    S (invChain mul a0 b0 x) ∧ f (invChain mul a0 b0 x) = invChain mul' (f a0) (f b0) (f x) := by
  obtain ⟨hxx, hfxx⟩ := h x x hx hx
  obtain ⟨hw, hfw⟩ := isqrtChain_map h ha hb hxx
  obtain ⟨hww, hfww⟩ := h _ _ hw hw
  obtain ⟨hs, hf⟩ := h _ _ hx hww
  refine ⟨hs, ?_⟩
  rw [invChain, hf, hfww, hfw, hfxx]
  rfl

end ChainMap

/-- `mul_fn` multiplies field elements and is closed on WR (rule R153, items 2 and 3). -/
theorem mulFn_carriesMul : CarriesMul elt (fun x => WR x) mulFn (· * ·) := fun _ _ ha hb =>
  ⟨mulFn_WR ha hb, elt_mulFn_WR ha hb⟩

theorem zeroLimbs_WR : WR zeroLimbs := by decide

/-- `isqrt_fn` is its chain over field elements (rule R202). -/
theorem isqrtFn_spec {x : FE} (h : WR x) :
    WR (isqrtFn x) ∧ elt (isqrtFn x) = isqrtChain (· * ·) (elt zeroLimbs) (elt zeroLimbs) (elt x) :=
  isqrtChain_map mulFn_carriesMul zeroLimbs_WR zeroLimbs_WR h

/-- `inv_fn` is its chain over field elements (rule R204). -/
theorem invFn_spec {x : FE} (h : WR x) :
    WR (invFn x) ∧ elt (invFn x) = invChain (· * ·) (elt zeroLimbs) (elt zeroLimbs) (elt x) :=
  invChain_map mulFn_carriesMul zeroLimbs_WR zeroLimbs_WR h

theorem smallOperand_WR (w : BitVec 16) : WR (smallOperand w) := by
  have hw := w.isLt
  refine ⟨fun k _ => ?_, by simp [smallOperand]⟩
  rw [smallOperand, Vec16.lane_build]
  split
  · rw [BitVec.toNat_setWidth]; omega
  · decide

theorem elt_canonFn {x : FE} (h : WR x) : elt (canonFn x) = elt x := by
  rw [elt, (canonFn_spec h).2, residue, ZMod.natCast_mod]; rfl

/-- The bytes of an encoding depend on the field element alone (rule R233). -/
theorem packFn_congr {x y : FE} (hx : WR x) (hy : WR y) (h : elt x = elt y) : packFn x = packFn y := by
  rw [packFn, packFn, (canonFn_spec hx).2, (canonFn_spec hy).2, elt_eq_iff.1 h]

end Sys2Proof.Machine

/-! ## Rule R13: no host access tells two limb vectors of one field element apart -/

namespace Sys2Proof.Machine

theorem SameToHost.elt_eq {s t : State} (h : SameToHost s t) (r : Reg) :
    elt (s.readFr r) = elt (t.readFr r) := elt_eq_iff.2 (h.frResidue r)

theorem SameToHost.pend {s t : State} (h : SameToHost s t) : t.pend = s.pend :=
  (congrArg State.pend h.rest).symm

theorem SameToHost.iobuf {s t : State} (h : SameToHost s t) : t.iobuf = s.iobuf :=
  (congrArg State.iobuf h.rest).symm

theorem SameToHost.rstN {s t : State} (h : SameToHost s t) : t.rstN = s.rstN :=
  (congrArg State.rstN h.rest).symm

theorem SameToHost.agenda {s t : State} (h : SameToHost s t) : t.agenda = s.agenda :=
  (congrArg State.agenda h.rest).symm

theorem SameToHost.refl (s : State) : SameToHost s s := ⟨fun _ => rfl, rfl⟩

/-- A change of the state that neither reads nor writes FR. -/
def IgnoresFr (g : State → State) : Prop := ∀ (s : State) (F : Vec16 FE),
  g { s with fr := F } = { g s with fr := F }

theorem SameToHost.map {g : State → State} (hg : IgnoresFr g) {s t : State} (h : SameToHost s t) :
    SameToHost (g s) (g t) := by
  have hfr (u : State) : (g u).fr = u.fr := by
    have e := congrArg State.fr (hg u u.fr)
    exact e
  refine ⟨fun r => ?_, ?_⟩
  · rw [State.readFr, State.readFr, hfr, hfr]; exact h.frResidue r
  · rw [hfr, ← hg, h.rest]

theorem SameToHost.mapStatus {s t : State} (h : SameToHost s t) (f : Status → Status) :
    SameToHost (s.mapStatus f) (t.mapStatus f) :=
  h.map (g := fun u => u.mapStatus f) fun _ _ => rfl

theorem SameToHost.emptyPend {s t : State} (h : SameToHost s t) :
    SameToHost s.emptyPend t.emptyPend :=
  h.map fun _ _ => rfl

theorem SameToHost.setIobuf {s t : State} (h : SameToHost s t) (m : Memory) :
    SameToHost (s.setIobuf m) (t.setIobuf m) :=
  h.map (g := fun u => u.setIobuf m) fun _ _ => rfl

theorem SameToHost.setAgenda {s t : State} (h : SameToHost s t) (ms : List Move) :
    SameToHost (s.setAgenda ms) (t.setAgenda ms) :=
  h.map (g := fun u => u.setAgenda ms) fun _ _ => rfl

/-- A reset zeroes what could differ. -/
theorem SameToHost.applyReset {s t : State} (h : SameToHost s t) :
    SameToHost (applyReset s) (applyReset t) := by
  rw [← h.rest]
  exact .refl _

theorem SameToHost.writeFr {s t : State} (h : SameToHost s t) (r : Reg) {x y : FE}
    (hxy : elt x = elt y) : SameToHost (s.writeFr r x) (t.writeFr r y) where
  frResidue q := by
    rw [readFr_writeFr, readFr_writeFr]
    split
    · exact elt_eq_iff.1 hxy
    · exact h.frResidue q
  rest := congrArg (fun u : State => { u with fr := (t.writeFr r y).fr }) h.rest

/-! ### The commands -/

/-- Two outcomes no host access tells apart. -/
inductive SameOutcome :
    Host.Outcome State Fault Refusal → Host.Outcome State Fault Refusal → Prop where
  | next {s t : State} (h : SameToHost s t) : SameOutcome (.next s) (.next t)
  | fault (f : Fault) : SameOutcome (.fault f) (.fault f)
  | refused (r : Refusal) : SameOutcome (.refused r) (.refused r)

theorem SameOutcome.spec {o p : Host.Outcome State Fault Refusal} (h : SameOutcome o p) :
    (∀ s, o = .next s → ∃ t, p = .next t ∧ SameToHost s t) ∧
    (∀ f, o = .fault f → p = .fault f) ∧ (∀ r, o = .refused r → p = .refused r) := by
  cases h with
  | next h =>
    refine ⟨fun s' e => ?_, fun f e => ?_, fun r e => ?_⟩
    · cases e
      exact ⟨_, rfl, h⟩
    · cases e
    · cases e
  | fault f => exact ⟨fun s' e => (by cases e), fun _ e => e, fun r e => (by cases e)⟩
  | refused r => exact ⟨fun s' e => (by cases e), fun f e => (by cases e), fun _ e => e⟩

theorem finish_same {s t : State} (h : SameToHost s t) : SameOutcome (finish s) (finish t) :=
  .next (h.mapStatus statusCompleted).emptyPend

theorem finishWrite_same {s t : State} (h : SameToHost s t) (rd : Reg) {x y : FE}
    (hxy : elt x = elt y) : SameOutcome (finishWrite rd x s) (finishWrite rd y t) :=
  finish_same (h.writeFr rd hxy)

/-- FE.CSWAP's two results (rule R156). -/
theorem xorLimbs_swapDiff (swap : Bool) (a b : FE) :
    xorLimbs a (swapDiff (swapMask swap) a b) = (if swap then b else a) ∧
    xorLimbs b (swapDiff (swapMask swap) a b) = (if swap then a else b) := by
  cases swap with
  | false =>
    have h0 : swapDiff (swapMask false) a b = zeroLimbs :=
      Vec16.ext_lane fun i => by simp [swapDiff, swapMask, zeroLimbs]
    rw [h0]
    constructor <;> exact Vec16.ext_lane fun i => by simp [xorLimbs, zeroLimbs]
  | true =>
    have h1 : swapDiff (swapMask true) a b = xorLimbs a b := Vec16.ext_lane fun i => by
      rw [swapDiff, swapMask, if_pos rfl, Vec16.lane_build, xorLimbs, Vec16.lane_build]
      exact BitVec.and_allOnes
    rw [h1]
    refine ⟨Vec16.ext_lane fun i => ?_, Vec16.ext_lane fun i => ?_⟩
    · simp only [xorLimbs, Vec16.lane_build, if_true]
      rw [← BitVec.xor_assoc, BitVec.xor_self, BitVec.zero_xor]
    · simp only [xorLimbs, Vec16.lane_build, if_true]
      rw [BitVec.xor_comm, BitVec.xor_assoc, BitVec.xor_self, BitVec.xor_zero]

theorem execCswap_same {s t : State} (h : SameToHost s t) (ra rb : Reg) (swap : Bool) :
    SameOutcome (execCswap ra rb swap s) (execCswap ra rb swap t) := by
  simp only [execCswap, xorLimbs_swapDiff]
  refine finish_same ((h.writeFr ra ?_).writeFr rb ?_) <;> split
  · exact h.elt_eq rb
  · exact h.elt_eq ra
  · exact h.elt_eq ra
  · exact h.elt_eq rb

theorem execFrombytes_same {s t : State} (h : SameToHost s t) (rd : Reg) :
    SameOutcome (execFrombytes rd s) (execFrombytes rd t) := by
  simp only [execFrombytes, h.iobuf]
  exact finish_same ((h.writeFr rd rfl).mapStatus _)

theorem execTobytes_same {s t : State} (h : SameToHost s t) {rs1 : Reg} (hs : WR (s.readFr rs1))
    (ht : WR (t.readFr rs1)) : SameOutcome (execTobytes rs1 s) (execTobytes rs1 t) := by
  simp only [execTobytes, h.iobuf, packFn_congr ht hs (h.elt_eq rs1).symm]
  exact finish_same (h.setIobuf _)

/-- Every command takes the same field elements to the same field elements and the same bytes. -/
theorem exec_same {s t : State} (h : SameToHost s t) (hs : ∀ r, WR (s.readFr r))
    (ht : ∀ r, WR (t.readFr r)) (i : Instr) : SameOutcome (exec i s) (exec i t) := by
  cases i with
  | copy rd rs1 => exact finishWrite_same h rd (h.elt_eq rs1)
  | reduce rd rs1 =>
    refine finishWrite_same h rd ?_
    rw [elt_reduceFn_WR (hs rs1), elt_reduceFn_WR (ht rs1), h.elt_eq]
  | canon rd rs1 =>
    refine finishWrite_same h rd ?_
    rw [elt_canonFn (hs rs1), elt_canonFn (ht rs1), h.elt_eq]
  | ldc rd k => exact finishWrite_same h rd rfl
  | add rd rs1 rs2 =>
    refine finishWrite_same h rd ?_
    rw [elt_add (hs rs1) (hs rs2), elt_add (ht rs1) (ht rs2), h.elt_eq, h.elt_eq]
  | sub rd rs1 rs2 =>
    refine finishWrite_same h rd ?_
    rw [elt_sub (hs rs1) (hs rs2), elt_sub (ht rs1) (ht rs2), h.elt_eq, h.elt_eq]
  | mul rd rs1 rs2 =>
    refine finishWrite_same h rd ?_
    rw [elt_mulFn_WR (hs rs1) (hs rs2), elt_mulFn_WR (ht rs1) (ht rs2), h.elt_eq, h.elt_eq]
  | sqr rd rs1 =>
    refine finishWrite_same h rd ?_
    rw [elt_mulFn_WR (hs rs1) (hs rs1), elt_mulFn_WR (ht rs1) (ht rs1), h.elt_eq]
  | cswap ra rb swap => exact execCswap_same h ra rb swap
  | mulw rd rs1 w =>
    refine finishWrite_same h rd ?_
    rw [elt_mulFn_WR (hs rs1) (smallOperand_WR w), elt_mulFn_WR (ht rs1) (smallOperand_WR w), h.elt_eq]
  | isqrt rd rs1 =>
    refine finishWrite_same h rd ?_
    rw [(isqrtFn_spec (hs rs1)).2, (isqrtFn_spec (ht rs1)).2, h.elt_eq]
  | inv rd rs1 =>
    refine finishWrite_same h rd ?_
    rw [(invFn_spec (hs rs1)).2, (invFn_spec (ht rs1)).2, h.elt_eq]
  | frombytes rd => exact execFrombytes_same h rd
  | tobytes rs1 => exact execTobytes_same h (hs rs1) (ht rs1)

theorem unitStep_same {s t : State} (h : SameToHost s t) (hs : ∀ r, WR (s.readFr r))
    (ht : ∀ r, WR (t.readFr r)) : SameOutcome (unitStep s) (unitStep t) := by
  simp only [unitStep, h.pend]
  cases s.pend with
  | none => exact .next h
  | some v =>
    dsimp only
    cases decode v with
    | ok i => exact exec_same h hs ht i
    | error c => exact .refused _

/-! ### The host's accesses and the moves -/

theorem hostRead_ignoresFr (r : WindowReg) : IgnoresFr (hostRead r) := by
  intro s F
  cases r with
  | iobuf j =>
    change (if codecInFlight s then _ else _) = { (if codecInFlight s then _ else _ : State) with fr := F }
    split <;> rfl
  | cmd => rfl
  | status => rfl
  | ctrl => rfl
  | id => rfl

theorem writeCmd_ignoresFr (v : Word) : IgnoresFr (writeCmd v) := by
  intro s F
  simp only [writeCmd]
  split_ifs <;> rfl

theorem writeIobuf_ignoresFr (j : Fin 14) (v : Word) : IgnoresFr (writeIobuf j v) := by
  intro s F
  simp only [writeIobuf]
  split_ifs <;> rfl

theorem writeCtrl_same {s t : State} (h : SameToHost s t) (v : Word) :
    SameToHost (writeCtrl v s) (writeCtrl v t) := by
  rw [writeCtrl, writeCtrl]
  split
  · exact h.applyReset
  · exact h.map (g := fun u => { u with ctrl := ctrlWritten v }) fun _ _ => rfl

theorem hostWrite_same {s t : State} (h : SameToHost s t) (r : WindowReg) (v : Word) :
    SameToHost (hostWrite r v s) (hostWrite r v t) := by
  refine SameToHost.map (g := answer .okay) (fun _ _ => rfl) ?_
  cases r with
  | cmd => exact h.map (writeCmd_ignoresFr v)
  | status => exact h.mapStatus _
  | ctrl => exact writeCtrl_same h v
  | id => exact h
  | iobuf j => exact h.map (writeIobuf_ignoresFr j v)

theorem hostAccess_same {s t : State} (h : SameToHost s t) (a : Access) :
    SameOutcome (hostAccess a s) (hostAccess a t) := by
  rw [hostAccess, hostAccess]
  cases accessReg a with
  | none => exact .fault _
  | some r =>
    cases a.kind with
    | read => exact .next (h.map (hostRead_ignoresFr r))
    | write v => exact .next (hostWrite_same h r v)

theorem doMove_same {s t : State} (h : SameToHost s t) (hs : ∀ r, WR (s.readFr r))
    (ht : ∀ r, WR (t.readFr r)) (m : Move) : SameOutcome (doMove m s) (doMove m t) := by
  cases m with
  | host a =>
    rw [doMove, doMove, h.rstN]
    split
    · exact hostAccess_same h a
    · exact .next (h.map (g := unanswered) fun _ _ => rfl)
  | complete =>
    rw [doMove, doMove, h.rstN]
    split
    · exact unitStep_same h hs ht
    · exact .next h
  | rstLow => exact .next (h.applyReset.map (g := fun u => { u with rstN := false }) fun _ _ => rfl)
  | rstHigh => exact .next (h.map (g := releaseReset) fun _ _ => rfl)

/-- Rule R13 for one step, on states whose registers are WR. -/
theorem step_same {s t : State} (h : SameToHost s t) (hs : ∀ r, WR (s.readFr r))
    (ht : ∀ r, WR (t.readFr r)) : SameOutcome (step s) (step t) := by
  rw [step, step, nextMove, nextMove, h.agenda]
  cases s.agenda with
  | nil => exact doMove_same h hs ht .complete
  | cons m rest =>
    exact doMove_same (h.setAgenda rest) hs ht m

/-- Settles O53: every step takes related states to related outcomes (`step_same`), the invariant
giving only that every register is WR. -/
theorem limbsAreInvisibleToTheHost : Obligations.LimbsAreInvisibleToTheHost := by
  intro s t hs ht h
  exact (step_same h hs.frWR ht.frWR).spec

/-! ## Time and work (rules R207, R318, R319) -/

/-- Rule R319's table by opcode. -/
def workOfOpcode (op : BitVec 8) : Work :=
  if op = 0x02#8 ∨ op = 0x10#8 ∨ op = 0x11#8 then ⟨0, 1, 0⟩
  else if op = 0x03#8 ∨ op = 0x31#8 then ⟨0, 0, 1⟩
  else if op = 0x12#8 ∨ op = 0x13#8 ∨ op = 0x15#8 then ⟨1, 0, 0⟩
  else if op = 0x20#8 then ⟨isqrtMuls, 0, 0⟩
  else if op = 0x21#8 then ⟨invMuls, 0, 0⟩
  else ⟨0, 0, 0⟩

theorem datapathWork_eq (i : Instr) : datapathWork i = workOfOpcode i.opcode := by
  cases i <;> rfl

/-- The count of rule R207. -/
theorem isqrtMuls_eq : isqrtMuls = 457 := by decide

theorem invMuls_eq : invMuls = 460 := by rw [invMuls, isqrtMuls_eq]

/-- Settles O54: both tables are functions of the opcode. -/
theorem timeAndWorkFollowTheOpcode : Obligations.TimeAndWorkFollowTheOpcode := by
  refine ⟨fun i j h => ⟨congrArg Config.lat h, ?_⟩, fun i => Nat.le_add_left 1 _, ?_⟩
  · rw [datapathWork_eq, datapathWork_eq, h]
  · intro rd rs1 rs2 k w swap
    simp only [datapathWork, isqrtMuls_eq, invMuls_eq, and_self]

end Sys2Proof.Machine

/-! ## The state and what a step keeps of it (10_state.md) -/

namespace Sys2Proof.Machine

/-! ### What a reset leaves (rule R301) -/

/-- A state that a reset would not change has every piece of the unit at its reset value. -/
theorem AllReset.of_fixed {t : State} (h : applyReset t = t) : AllReset t := by
  rw [← h]
  exact ⟨fun r k => by simp, fun _ => rfl, rfl, by rw [applyReset_status]; decide,
    by rw [applyReset_ctrl]; decide, rfl⟩

theorem noncanon_of_fixed {t : State} (h : applyReset t = t) : t.status.noncanon = false :=
  (congrArg (·.status.noncanon) h).symm

theorem allZero_WR : WR FE.allZero := by decide

/-! ### What a host access can do -/

/-- A host write is the soft reset, or it writes neither FR nor NONCANON nor the level of the pin
(rules R21, R30). -/
theorem hostWrite_reset_or_frame (r : WindowReg) (v : Word) (s : State) :
    (r = .ctrl ∧ v[31] = true ∧ hostWrite r v s = answer .okay (applyReset s)) ∨
    ((hostWrite r v s).fr = s.fr ∧ (hostWrite r v s).status.noncanon = s.status.noncanon ∧
      (hostWrite r v s).rstN = s.rstN) := by
  cases r with
  | cmd =>
    right
    rw [hostWrite]
    obtain ⟨-, h⟩ | ⟨-, -, h⟩ | ⟨-, -, h⟩ := writeCmd_cases v s <;> rw [h] <;>
      exact ⟨rfl, rfl, rfl⟩
  | status => right; exact ⟨rfl, rfl, rfl⟩
  | ctrl =>
    rw [hostWrite, writeCtrl]
    by_cases hv : v[31] = true
    · left; exact ⟨rfl, hv, by rw [if_pos hv]⟩
    · right; rw [if_neg hv]; exact ⟨rfl, rfl, rfl⟩
  | id => right; exact ⟨rfl, rfl, rfl⟩
  | iobuf j =>
    right
    rw [hostWrite, writeIobuf]
    split <;> exact ⟨rfl, rfl, rfl⟩

/-- A host access is the soft reset, or it writes neither FR nor NONCANON nor the level of the pin. -/
theorem hostAccess_reset_or_frame {a : Access} {s t : State} (h : hostAccess a s = .next t) :
    (accessReg a = some .ctrl ∧ (∃ v, a.kind = .write v ∧ v[31] = true) ∧
      t = answer .okay (applyReset s)) ∨
    (t.fr = s.fr ∧ t.status.noncanon = s.status.noncanon ∧ t.rstN = s.rstN) := by
  obtain ⟨r, hr, ⟨-, rfl⟩ | ⟨v, hk, rfl⟩⟩ := hostAccess_next h
  · right
    obtain ⟨hfr, -, -, hstatus, -, -, hrst, -, -⟩ := hostRead_frame r s
    exact ⟨hfr, by rw [hstatus], hrst⟩
  · obtain ⟨rfl, hv, ht⟩ | hframe := hostWrite_reset_or_frame r v s
    · left; exact ⟨hr, ⟨v, hk, hv⟩, ht⟩
    · right; exact hframe

theorem hostAccess_rstN {a : Access} {s t : State} (h : hostAccess a s = .next t) :
    t.rstN = s.rstN := by
  obtain ⟨-, -, rfl⟩ | ⟨-, -, hrst⟩ := hostAccess_reset_or_frame h
  · rfl
  · exact hrst

/-! ### The results of the commands are WR (rules R22, R23) -/

/-- Weak reduction of limbs below 2^31 is WR (rule R122, item 2). -/
theorem reduceFn_WR_of_lt {x : FE} (h : ∀ k, nats x k < 2 ^ 31) : WR (reduceFn x) := by
  have hn := nats_reduceFn h
  refine ⟨fun k hk => ?_, ?_⟩
  · rw [← nats_apply, hn]
    exact Nat.le_pred_of_lt (natClean_lt _ hk)
  · rw [← nats_apply, hn, natClean_last]
    have := reduce_carry_le h 15
    omega

theorem reduceFn_WR {x : FE} (h : WR x) : WR (reduceFn x) :=
  reduceFn_WR_of_lt fun k => Nat.lt_of_le_of_lt (h.nats_le k) (by decide)

theorem addLimbs_lt {a b : FE} (ha : WR a) (hb : WR b) (k : Fin 16) :
    nats (addLimbs a b) k < 2 ^ 31 := by
  have := ha.nats_le k
  have := hb.nats_le k
  rw [nats_addLimbs ha hb]
  omega

theorem subLimbs_lt {a b : FE} (ha : WR a) (hb : WR b) (k : Fin 16) :
    nats (subLimbs a b) k < 2 ^ 31 := by
  have := ha.nats_le k
  have := (nats_primeLimbs_bounds k).2
  have := nats_subLimbs ha hb k
  omega

theorem Tight.wr {x : FE} (h : Tight x) : WR x :=
  ⟨fun k _ => h k, (h 15).trans (by decide)⟩

theorem canonFn_WR {x : FE} (h : WR x) : WR (canonFn x) :=
  Tight.wr (canonFn_spec h).1.1

theorem rom_WR (k : RomConst) : WR (rom k) := by
  cases k <;> decide

/-- The limbs of an unpacked encoding are tight, so WR (rule R231). -/
theorem unpackFn_WR (b : Bytes) : WR (unpackFn b) := by
  refine Tight.wr fun k => ?_
  rw [unpackFn, fe, Vec16.lane_build, BitVec.toNat_and]
  exact Nat.and_le_right

/-! ### What a command and a step can do -/

/-- What a command does before it completes: it writes one register, or two (FE.CSWAP), or one register
and NONCANON (FE.FROMBYTES), or IOBUF (FE.TOBYTES). What it writes is WR where its sources are, and in
canonical form where IOBUF was (rules R21, R23, R30). -/
theorem exec_forms (i : Instr) (s : State) :
    (∃ rd x, exec i s = finishWrite rd x s ∧ ((∀ r, WR (s.readFr r)) → WR x)) ∨
    (∃ ra rb x y, exec i s = finish ((s.writeFr ra x).writeFr rb y) ∧
      ((∀ r, WR (s.readFr r)) → WR x ∧ WR y)) ∨
    (∃ rd x b, exec i s = finish ((s.writeFr rd x).mapStatus (statusNoncanon b)) ∧
      WR x ∧ i = .frombytes rd ∧ b = noncanonFn (readBytes s.iobuf)) ∨
    (∃ m, exec i s = finish (s.setIobuf m) ∧ (s.iobuf.wf = true → m.wf = true)) := by
  cases i with
  | copy rd rs1 => left; exact ⟨rd, _, rfl, fun h => h rs1⟩
  | reduce rd rs1 => left; exact ⟨rd, _, rfl, fun h => reduceFn_WR (h rs1)⟩
  | canon rd rs1 => left; exact ⟨rd, _, rfl, fun h => canonFn_WR (h rs1)⟩
  | ldc rd k => left; exact ⟨rd, _, rfl, fun _ => rom_WR k⟩
  | add rd rs1 rs2 =>
    left; exact ⟨rd, _, rfl, fun h => reduceFn_WR_of_lt (addLimbs_lt (h rs1) (h rs2))⟩
  | sub rd rs1 rs2 =>
    left; exact ⟨rd, _, rfl, fun h => reduceFn_WR_of_lt (subLimbs_lt (h rs1) (h rs2))⟩
  | mul rd rs1 rs2 => left; exact ⟨rd, _, rfl, fun h => mulFn_WR (h rs1) (h rs2)⟩
  | sqr rd rs1 => left; exact ⟨rd, _, rfl, fun h => mulFn_WR (h rs1) (h rs1)⟩
  | cswap ra rb swap =>
    right; left
    refine ⟨ra, rb, _, _, rfl, fun h => ?_⟩
    obtain ⟨ha, hb⟩ := xorLimbs_swapDiff swap (s.readFr ra) (s.readFr rb)
    rw [ha, hb]
    cases swap with
    | false => exact ⟨h ra, h rb⟩
    | true => exact ⟨h rb, h ra⟩
  | mulw rd rs1 w => left; exact ⟨rd, _, rfl, fun h => mulFn_WR (h rs1) (smallOperand_WR w)⟩
  | isqrt rd rs1 => left; exact ⟨rd, _, rfl, fun h => (isqrtFn_spec (h rs1)).1⟩
  | inv rd rs1 => left; exact ⟨rd, _, rfl, fun h => (invFn_spec (h rs1)).1⟩
  | frombytes rd => right; right; left; exact ⟨rd, _, _, rfl, unpackFn_WR _, rfl, rfl⟩
  | tobytes rs1 => right; right; right; exact ⟨_, rfl, fun h => wf_writeBytes _ _ h⟩

/-- A command leaves the life cycle as every completion does, and writes NONCANON only if it is
FE.FROMBYTES (rules R30, R120). -/
theorem exec_next {i : Instr} {s t : State} (h : exec i s = .next t) :
    Completes s t ∧ (t.status.noncanon = s.status.noncanon ∨
      ∃ rd, i = .frombytes rd ∧ t.status.noncanon = noncanonFn (readBytes s.iobuf)) := by
  obtain ⟨rd, x, he, -⟩ | ⟨ra, rb, x, y, he, -⟩ | ⟨rd, x, b, he, -, hi, hb⟩ | ⟨m, he, -⟩ :=
    exec_forms i s <;> rw [he] at h <;> obtain rfl := (finish_next _ t).1 h
  · exact ⟨.of_finish rfl rfl rfl rfl rfl rfl rfl rfl rfl, .inl rfl⟩
  · exact ⟨.of_finish rfl rfl rfl rfl rfl rfl rfl rfl rfl, .inl rfl⟩
  · exact ⟨.of_finish rfl rfl rfl rfl rfl rfl rfl rfl rfl, .inr ⟨rd, hi, hb⟩⟩
  · exact ⟨.of_finish rfl rfl rfl rfl rfl rfl rfl rfl rfl, .inl rfl⟩

/-- A step is one move, made from the state with some agenda. -/
theorem step_is_move {s t : State} (h : step s = .next t) :
    ∃ m ms, doMove m (s.setAgenda ms) = .next t := by
  obtain ⟨-, hm⟩ | ⟨m, rest, -, hm⟩ := step_next h
  · exact ⟨.complete, s.agenda, hm⟩
  · exact ⟨m, rest, hm⟩

/-! ### The invariant -/

/-- The invariant but for its clause on the reset pin: what each operation keeps, in reset or out. -/
structure State.UnitInv (s : State) : Prop where
  frWR : ∀ r : Reg, WR (s.readFr r)
  iobufWf : s.iobuf.wf = true
  busyPend : s.status.busy = s.pend.isSome
  pendChecked : ∀ v : Word, s.pend = some v → check v = .none ∧ s.cmd = v ∧ s.status.done = false
  errCode : s.status.err = false ↔ s.status.errcode = .none
  logged : s.ErrorFree → s.status.err = false

theorem State.inv_iff (s : State) :
    s.Inv ↔ s.UnitInv ∧ (s.rstN = false → applyReset s = s) :=
  ⟨fun ⟨h1, h2, h3, h4, h5, h6, h7⟩ => ⟨⟨h1, h2, h3, h4, h5, h6⟩, h7⟩,
    fun ⟨⟨h1, h2, h3, h4, h5, h6⟩, h7⟩ => ⟨h1, h2, h3, h4, h5, h6, h7⟩⟩

theorem State.UnitInv.inv_of_running {t : State} (h : t.UnitInv) (hr : t.rstN = true) : t.Inv :=
  t.inv_iff.2 ⟨h, fun hl => by rw [hr] at hl; cases hl⟩

/-- A reset state meets the invariant (rules R24, R301). -/
theorem State.Inv.of_fixed {t : State} (h : applyReset t = t) : t.Inv := by
  refine t.inv_iff.2 ⟨?_, fun _ => h⟩
  rw [← h]
  exact {
    frWR := fun r => by rw [readFr_applyReset]; exact allZero_WR
    iobufWf := rfl
    busyPend := rfl
    pendChecked := fun v hv => by cases hv
    errCode := ⟨fun _ => rfl, fun _ => rfl⟩
    logged := fun _ => rfl }

namespace State.UnitInv
variable {s : State} (h : s.UnitInv)
include h

theorem idle_pend (hb : s.status.busy = false) : s.pend = none := by
  exact Option.not_isSome_iff_eq_none.1 (by rw [← h.busyPend, hb]; decide)

/-- The moves to come, the answer, the draws, the enables and the pin are no part of the invariant's
other clauses. -/
theorem congr {t : State} (fr : t.fr = s.fr) (iobuf : t.iobuf = s.iobuf) (cmd : t.cmd = s.cmd)
    (status : t.status = s.status) (pend : t.pend = s.pend) (errorLog : t.errorLog = s.errorLog) :
    t.UnitInv where
  frWR r := by rw [readFr, fr]; exact h.frWR r
  iobufWf := by rw [iobuf]; exact h.iobufWf
  busyPend := by rw [status, pend]; exact h.busyPend
  pendChecked := by rw [status, pend, cmd]; exact h.pendChecked
  errCode := by rw [status]; exact h.errCode
  logged := by rw [ErrorFree, errorLog, status]; exact h.logged

/-- An error sets ERR and a code (rule R260). -/
theorem raiseCmdError {code : ErrCode} (hc : code ≠ .none) : (raiseCmdError code s).UnitInv where
  frWR := h.frWR
  iobufWf := h.iobufWf
  busyPend := h.busyPend
  pendChecked := h.pendChecked
  errCode := by
    have hcode : (if s.status.err then s.status.errcode else code) ≠ .none := by
      split
      · next herr => exact fun hn => by simp [h.errCode.2 hn] at herr
      · exact hc
    exact ⟨fun he => (by cases he), fun hn => absurd hn hcode⟩
  logged hl := by cases hl

/-- A word sampled by an idle unit (rule R74). -/
theorem sampleCommand (hb : s.status.busy = false) (v : Word) : (sampleCommand v s).UnitInv where
  frWR := h.frWR
  iobufWf := h.iobufWf
  busyPend := h.busyPend
  pendChecked w hw := by
    rw [sampleCommand_pend, h.idle_pend hb] at hw
    cases hw
  errCode := h.errCode
  logged := h.logged

/-- A checked word accepted when CMD holds it (rule R74). -/
theorem acceptCommand {v : Word} (hv : check v = .none) (hcmd : s.cmd = v)
    (hdone : s.status.done = false) : (acceptCommand v s).UnitInv where
  frWR := h.frWR
  iobufWf := h.iobufWf
  busyPend := rfl
  pendChecked w hw := by
    obtain rfl : v = w := Option.some.inj hw
    exact ⟨hv, hcmd, hdone⟩
  errCode := h.errCode
  logged := h.logged

theorem writeCmd (v : Word) : (writeCmd v s).UnitInv := by
  obtain ⟨-, hw⟩ | ⟨hb, hv, hw⟩ | ⟨hb, hv, hw⟩ := writeCmd_cases v s <;> rw [hw]
  · exact h.raiseCmdError (by decide)
  · exact (h.sampleCommand hb v).acceptCommand hv rfl rfl
  · exact (h.sampleCommand hb v).raiseCmdError hv

theorem setIobuf {m : Memory} (hm : m.wf = true) : (s.setIobuf m).UnitInv :=
  ⟨h.frWR, hm, h.busyPend, h.pendChecked, h.errCode, h.logged⟩

theorem writeIobuf (j : Fin 14) (v : Word) : (writeIobuf j v s).UnitInv := by
  rw [Machine.writeIobuf]
  split
  · exact h.raiseCmdError (by decide)
  · exact h.setIobuf (wf_writeWord _ j v h.iobufWf)

/-- Bits are cleared, ERR together with ERRCODE (rule R29). -/
theorem writeStatus (v : Word) : (s.mapStatus (statusW1C v)).UnitInv where
  frWR := h.frWR
  iobufWf := h.iobufWf
  busyPend := h.busyPend
  pendChecked w hw := by
    obtain ⟨hv, hcmd, hdone⟩ := h.pendChecked w hw
    exact ⟨hv, hcmd, by simp [statusW1C, hdone]⟩
  errCode := by
    rw [mapStatus_status, statusW1C]
    cases v[2] with
    | false => simpa using h.errCode
    | true => simp
  logged hl := by simp [statusW1C, h.logged hl]

theorem writeCtrl (v : Word) : (writeCtrl v s).UnitInv := by
  rw [Machine.writeCtrl]
  split
  · exact ((applyReset s).inv_iff.1 (.of_fixed rfl)).1
  · exact h.congr rfl rfl rfl rfl rfl rfl

theorem hostWrite (r : WindowReg) (v : Word) : (hostWrite r v s).UnitInv := by
  have hanswer {t : State} (ht : t.UnitInv) : (answer .okay t).UnitInv :=
    ht.congr rfl rfl rfl rfl rfl rfl
  refine hanswer ?_
  cases r with
  | cmd => exact h.writeCmd v
  | status => exact h.writeStatus v
  | ctrl => exact h.writeCtrl v
  | id => exact h
  | iobuf j => exact h.writeIobuf j v

/-- A host access keeps the invariant's clauses. -/
theorem hostAccess {a : Access} {t : State} (ht : hostAccess a s = .next t) : t.UnitInv := by
  obtain ⟨r, -, ⟨-, rfl⟩ | ⟨v, -, rfl⟩⟩ := hostAccess_next ht
  · obtain ⟨hfr, hiobuf, hcmd, hstatus, -, hpend, -, -, hlog⟩ := hostRead_frame r s
    exact h.congr hfr hiobuf hcmd hstatus hpend hlog
  · exact h.hostWrite r v

theorem writeFr (rd : Reg) {x : FE} (hx : WR x) : (s.writeFr rd x).UnitInv where
  frWR r := by
    rw [readFr_writeFr]
    split
    · exact hx
    · exact h.frWR r
  iobufWf := h.iobufWf
  busyPend := h.busyPend
  pendChecked := h.pendChecked
  errCode := h.errCode
  logged := h.logged

theorem writeNoncanon (b : Bool) : (s.mapStatus (statusNoncanon b)).UnitInv :=
  ⟨h.frWR, h.iobufWf, h.busyPend, h.pendChecked, h.errCode, h.logged⟩

/-- A completion empties PEND (rule R74). -/
theorem finish {t : State} (ht : finish s = .next t) : t.UnitInv := by
  obtain rfl := (finish_next s t).1 ht
  exact ⟨h.frWR, h.iobufWf, rfl, fun v hv => (by cases hv), h.errCode, h.logged⟩

/-- Every command keeps the invariant's clauses: registers stay WR (rules R22, R23). -/
theorem exec {i : Instr} {t : State} (ht : exec i s = .next t) : t.UnitInv := by
  obtain ⟨rd, x, he, hx⟩ | ⟨ra, rb, x, y, he, hxy⟩ | ⟨rd, x, b, he, hx, -⟩ | ⟨m, he, hm⟩ :=
    exec_forms i s <;> rw [he] at ht
  · exact (h.writeFr rd (hx h.frWR)).finish ht
  · obtain ⟨hx, hy⟩ := hxy h.frWR
    exact ((h.writeFr ra hx).writeFr rb hy).finish ht
  · exact ((h.writeFr rd hx).writeNoncanon b).finish ht
  · exact (h.setIobuf (hm h.iobufWf)).finish ht

theorem unitStep {t : State} (ht : unitStep s = .next t) : t.UnitInv := by
  obtain ⟨-, rfl⟩ | ⟨v, i, -, -, he⟩ := unitStep_next ht
  · exact h
  · exact h.exec he

end State.UnitInv

theorem unitStep_rstN {s t : State} (h : unitStep s = .next t) : t.rstN = s.rstN := by
  obtain ⟨-, rfl⟩ | ⟨v, i, -, -, he⟩ := unitStep_next h
  · rfl
  · exact (exec_next he).1.rstN

theorem State.Inv.setAgenda {s : State} (h : s.Inv) (ms : List Move) : (s.setAgenda ms).Inv := by
  obtain ⟨hu, hl⟩ := s.inv_iff.1 h
  exact (s.setAgenda ms).inv_iff.2
    ⟨hu.congr rfl rfl rfl rfl rfl rfl, fun hr => congrArg (State.setAgenda · ms) (hl hr)⟩

/-- Every move keeps the invariant: out of reset the agents keep its clauses, in reset nothing of the
unit moves, and the falling edge resets all (rules R300, R301). -/
theorem State.Inv.doMove {m : Move} {s t : State} (h : s.Inv) (hm : doMove m s = .next t) : t.Inv := by
  obtain ⟨hu, hl⟩ := s.inv_iff.1 h
  obtain ⟨a, -, hr, ha⟩ | ⟨a, -, hr, rfl⟩ | ⟨-, hr, hs⟩ | ⟨-, -, rfl⟩ | ⟨-, rfl⟩ | ⟨-, rfl⟩ :=
    doMove_next hm
  · exact (hu.hostAccess ha).inv_of_running ((hostAccess_rstN ha).trans hr)
  · exact .of_fixed (congrArg unanswered (hl hr))
  · exact (hu.unitStep hs).inv_of_running ((unitStep_rstN hs).trans hr)
  · exact h
  · exact .of_fixed rfl
  · exact (hu.congr (t := releaseReset s) rfl rfl rfl rfl rfl rfl).inv_of_running rfl

/-- Settles O45: a step is a move, and every move keeps the invariant. -/
theorem stepKeepsTheInvariant : Obligations.StepKeepsTheInvariant := by
  intro s t hs h
  obtain ⟨m, ms, hm⟩ := step_is_move h
  exact (hs.setAgenda ms).doMove hm

/-- Settles O47: of all host accesses only the soft reset writes FR. -/
theorem hostNeverWritesRegisters : Obligations.HostNeverWritesRegisters := by
  intro s t a rest ha h
  rw [step, nextMove, ha] at h
  obtain ⟨b, hb, -, hacc⟩ | ⟨-, -, -, rfl⟩ | ⟨hb, -⟩ | ⟨hb, -⟩ | ⟨hb, -⟩ | ⟨hb, -⟩ := doMove_next h
  · cases hb
    obtain ⟨hreg, hv, rfl⟩ | ⟨hfr, -⟩ := hostAccess_reset_or_frame hacc
    · right; exact ⟨hreg, hv, (AllReset.of_fixed rfl).regs⟩
    · left; exact fun r => congrArg (·.lane r) hfr
  · left; exact fun _ => rfl
  all_goals cases hb

/-- A move keeps NONCANON, or completes FE.FROMBYTES, or leaves a reset state (rule R30). -/
theorem doMove_noncanon {m : Move} {s t : State} (h : doMove m s = .next t) :
    t.status.noncanon = s.status.noncanon ∨
    (∃ v rd, s.pend = some v ∧ decode v = .ok (.frombytes rd) ∧
      t.status.noncanon = noncanonFn (readBytes s.iobuf)) ∨ applyReset t = t := by
  obtain ⟨a, -, -, ha⟩ | ⟨a, -, -, rfl⟩ | ⟨-, -, hs⟩ | ⟨-, -, rfl⟩ | ⟨-, rfl⟩ | ⟨-, rfl⟩ :=
    doMove_next h
  · obtain ⟨-, -, rfl⟩ | ⟨-, hn, -⟩ := hostAccess_reset_or_frame ha
    · right; right; rfl
    · left; exact hn
  · left; rfl
  · obtain ⟨-, rfl⟩ | ⟨v, i, hp, hi, he⟩ := unitStep_next hs
    · left; rfl
    · obtain ⟨-, hn | ⟨rd, rfl, hn⟩⟩ := exec_next he
      · left; exact hn
      · right; left; exact ⟨v, rd, hp, hi, hn⟩
  · left; rfl
  · right; right; rfl
  · left; rfl

/-- Settles O48: a step is a move, and no move but these two writes NONCANON. -/
theorem onlyFrombytesWritesNoncanon : Obligations.OnlyFrombytesWritesNoncanon := by
  intro s t h hne
  obtain ⟨m, ms, hm⟩ := step_is_move h
  obtain hn | ⟨v, rd, hp, hd, hn⟩ | hreset := doMove_noncanon hm
  · exact absurd hn hne
  · left
    refine ⟨v, rd, hp, hd, ?_⟩
    rw [hn, noncanonFn, noncanonFlag, decide_eq_true_iff]
    rfl
  · right; exact ⟨noncanon_of_fixed hreset, .of_fixed hreset⟩

/-- Settles O44: the reset state is one that a reset does not change. -/
theorem resetMeetsTheInvariant : Obligations.ResetMeetsTheInvariant := by
  have hinv : State.reset.Inv := .of_fixed rfl
  exact ⟨hinv, ⟨rfl, rfl⟩, ⟨rfl, rfl⟩, ⟨rfl, rfl⟩, rfl, hinv.frWR⟩

/-! ### The constants (rules R25, R26) -/

theorem val_zeroLimbs : val zeroLimbs = 0 := by
  rw [val_eq_sum]
  simp [zeroLimbs]

theorem val_oneLimbs : val oneLimbs = 1 := by
  rw [val_eq_sum]
  simp [oneLimbs, apply_ite BitVec.toNat]

/-- FE.LDC writes its constant and nothing else (rule R126). -/
theorem execLdc_next (rd : Reg) (k : RomConst) (s : State) :
    ∃ t, exec (.ldc rd k) s = .next t ∧ WritesOnly rd s t ∧ t.readFr rd = rom k :=
  ⟨_, finishWrite_answers rd (rom k) s, .of_finishWrite rd (rom k) s, by simp⟩

/-- Settles O12: each constant's limbs are those of its definition. -/
theorem ldcLoadsTheConstant : Obligations.LdcLoadsTheConstant := by
  intro rd s
  refine ⟨?_, ?_, ?_⟩
  · obtain ⟨t, ht, hw, hr⟩ := execLdc_next rd .zero s
    exact ⟨t, ht, hw, hr ▸ Vec16.lane_build _, hr ▸ val_zeroLimbs⟩
  · obtain ⟨t, ht, hw, hr⟩ := execLdc_next rd .one s
    exact ⟨t, ht, hw, hr ▸ Vec16.lane_build _, hr ▸ val_oneLimbs⟩
  · obtain ⟨t, ht, hw, hr⟩ := execLdc_next rd .prime s
    exact ⟨t, ht, hw, hr ▸ Vec16.lane_build _, hr ▸ val_primeLimbs⟩

/-! ### The control registers (rules R28, R29, R31, R33) -/

/-- Every bit of the word STATUS reads as (rules R29, R67). -/
theorem getLsbD_statusWord (st : Status) (i : Nat) : (statusWord st).getLsbD i =
    if i = 0 then st.busy else if i = 1 then st.done else if i = 2 then st.err
    else if i = 3 then false else if i < 8 then (errBits st.errcode).getLsbD (i - 4)
    else decide (i = 8) && st.noncanon := by
  rw [statusWord]
  change BitVec.getLsbD (w := 23 + 1 + 4 + 1 + 1 + 1 + 1) _ i = _
  simp only [BitVec.getLsbD_append, BitVec.getLsbD_ofBool, BitVec.getLsbD_zero, Nat.sub_sub]
  split_ifs <;> grind

/-- Every bit of the word CTRL reads as (rule R31). -/
theorem getLsbD_ctrlWord (c : Ctrl) (i : Nat) : (ctrlWord c).getLsbD i =
    if i = 0 then c.ieDone else if i = 1 then c.ieErr else false := by
  rw [ctrlWord]
  change BitVec.getLsbD (w := 30 + 1 + 1) _ i = _
  simp only [BitVec.getLsbD_append, BitVec.getLsbD_ofBool, BitVec.getLsbD_zero, Nat.sub_sub]
  grind

/-- The fields of the word STATUS reads as (rule R29). -/
theorem statusWord_fields (st : Status) :
    (statusWord st)[0] = st.busy ∧ (statusWord st)[1] = st.done ∧ (statusWord st)[2] = st.err ∧
    (statusWord st)[3] = false ∧ (statusWord st).extractLsb' 4 4 = errBits st.errcode ∧
    (statusWord st)[8] = st.noncanon ∧ statusWord st >>> 9 = 0#32 := by
  have h := getLsbD_statusWord st
  refine ⟨h 0, h 1, h 2, h 3, ?_, (h 8).trans (Bool.true_and _), ?_⟩
  · refine BitVec.eq_of_getLsbD_eq fun i hi => ?_
    rw [BitVec.getLsbD_extractLsb', h]
    grind
  · refine BitVec.eq_of_getLsbD_eq fun i hi => ?_
    rw [BitVec.getLsbD_ushiftRight, h]
    grind

/-- The fields of the word CTRL reads as (rule R31). -/
theorem ctrlWord_fields (c : Ctrl) :
    (ctrlWord c)[0] = c.ieDone ∧ (ctrlWord c)[1] = c.ieErr ∧ ctrlWord c >>> 2 = 0#32 := by
  have h := getLsbD_ctrlWord c
  refine ⟨h 0, h 1, BitVec.eq_of_getLsbD_eq fun i hi => ?_⟩
  rw [BitVec.getLsbD_ushiftRight, h]
  grind

/-- Settles O35: each register's read is its word, and no read changes the unit (rule R69). -/
theorem controlReadsReturnTheRegisters : Obligations.ControlReadsReturnTheRegisters := by
  intro s
  refine ⟨?_, ?_, ?_, ?_⟩
  · exact ⟨_, hostAccess_memRead (by decide) rfl s, hostRead_sameUnit .cmd s, rfl⟩
  · exact ⟨_, _, hostAccess_memRead (by decide) rfl s, hostRead_sameUnit .status s, rfl,
      statusWord_fields s.status⟩
  · exact ⟨_, _, hostAccess_memRead (by decide) rfl s, hostRead_sameUnit .ctrl s, rfl,
      ctrlWord_fields s.ctrl⟩
  · exact ⟨_, hostAccess_memRead (by decide) rfl s, hostRead_sameUnit .id s, rfl⟩

/-- What a write of STATUS does to its bits (rule R29). -/
theorem statusW1C_bits (v : Word) (st : Status) :
    (statusW1C v st).done = (if v[1] then false else st.done) ∧
    (statusW1C v st).err = (if v[2] then false else st.err) := by
  constructor
  · cases h : v[1] <;> simp [statusW1C, h]
  · cases h : v[2] <;> simp [statusW1C, h]

theorem SameUnit.of_eq {s t : State} (fr : t.fr = s.fr) (iobuf : t.iobuf = s.iobuf)
    (cmd : t.cmd = s.cmd) (status : t.status = s.status) (ctrl : t.ctrl = s.ctrl)
    (pend : t.pend = s.pend) : SameUnit s t :=
  ⟨fun r => congrArg (·.lane r) fr, fun _ => by rw [iobuf], cmd, status, ctrl, pend⟩

/-- Settles O39: each write changes its own register's bits alone. -/
theorem controlWritesTouchOnlyTheirBits : Obligations.ControlWritesTouchOnlyTheirBits := by
  intro v s
  refine ⟨?_, fun hv => ?_, ?_⟩
  · obtain ⟨hdone, herr⟩ := statusW1C_bits v s.status
    exact ⟨_, hostAccess_memWrite (r := .status) v (by decide) rfl s, rfl, rfl, rfl, hdone, herr, rfl,
      .of_eq rfl rfl rfl rfl rfl rfl⟩
  · have hw : hostWrite .ctrl v s = answer .okay { s with ctrl := ctrlWritten v } := by
      simp [hostWrite, writeCtrl, hv]
    refine ⟨_, hostAccess_memWrite v (by decide) rfl s, ?_⟩
    rw [hw]
    exact ⟨rfl, rfl, rfl, .of_eq rfl rfl rfl rfl rfl rfl⟩
  · exact ⟨_, hostAccess_memWrite v (by decide) rfl s, rfl, .of_eq rfl rfl rfl rfl rfl rfl⟩

end Sys2Proof.Machine

/-! ## The host's accesses and the command's life cycle (20_memory.md) -/

namespace Sys2Proof.Machine

/-! ### The bus's ERROR response (rules R61, R64 to R66, R270) -/

/-- The offsets of the window at which no register stands: misaligned, in the gap, or past IOBUF. -/
theorem windowReg_eq_none_iff (off : Nat) : windowReg off = none ↔
    off % 4 ≠ 0 ∨ (0x10 ≤ off ∧ off ≤ 0x3F) ∨ 0x78 ≤ off := by
  simp only [windowReg]
  split_ifs
  iterate 5 exact iff_of_false nofun (by omega)
  exact iff_of_true rfl (by omega)

theorem accessReg_eq_none_iff (k : AccessKind) (w : AccessWidth) (off : Nat) :
    accessReg ⟨k, w, Config.feuBase + off⟩ = none ↔
      w ≠ .w32 ∨ off % 4 ≠ 0 ∨ (0x10 ≤ off ∧ off ≤ 0x3F) ∨ 0x78 ≤ off := by
  rw [accessReg]
  by_cases hw : w = .w32
  · rw [if_pos hw]
    by_cases hoff : off < 0x80
    · rw [windowOffset_base off hoff]
      simpa [hw] using windowReg_eq_none_iff off
    · rw [windowOffset_outside off (by omega)]
      exact iff_of_true rfl (.inr (.inr (.inr (by omega))))
  · simp [hw]

/-- An access gets the ERROR response exactly when it reaches no register. -/
theorem hostAccess_fault_iff (a : Access) (s : State) :
    hostAccess a s = .fault .busError ↔ accessReg a = none := by
  constructor
  · intro h
    by_contra hr
    obtain ⟨r, hr⟩ := Option.ne_none_iff_exists'.1 hr
    obtain ⟨t, ht⟩ := hostAccess_answers hr s
    rw [ht] at h
    cases h
  · intro h
    rw [hostAccess, h]

theorem windowOffset_eq_none {addr : Nat} (h : ∀ off, off < 0x80 → addr ≠ Config.feuBase + off) :
    windowOffset addr = none := by
  rw [windowOffset, if_neg]
  rintro ⟨hlo, hhi⟩
  exact h (addr - Config.feuBase) (Nat.sub_lt_left_of_lt_add hlo hhi) (by omega)

/-- Settles O34: the ERROR response is for the accesses that reach no register. -/
theorem busErrorExactly : Obligations.BusErrorExactly := by
  refine ⟨fun k w off s => ⟨?_, fun h => ?_⟩, fun k w addr s h => ?_⟩
  · rw [hostAccess_fault_iff, accessReg_eq_none_iff]
  · rw [← accessReg_eq_none_iff k] at h
    obtain ⟨r, hr⟩ := Option.ne_none_iff_exists'.1 h
    exact hostAccess_answers hr s
  · rw [hostAccess_fault_iff, accessReg, windowOffset_eq_none h]
    exact ite_self none

/-! ### IOBUF's words (rules R62, R63, R76) -/

theorem iobuf_offset_lt (j : Fin 14) : 0x40 + 4 * j.val < 0x80 := by omega

/-- A byte appended is the lowest digit in base 2^8. -/
theorem toNat_append_byte {n : Nat} (x : BitVec n) (b : Byte) :
    (x ++ b).toNat = x.toNat * 2 ^ 8 + b.toNat := by
  rw [BitVec.toNat_append, ← Nat.shiftLeft_add_eq_or_of_lt b.isLt, Nat.shiftLeft_eq]

/-- A word as the sum of its four bytes. -/
theorem toNat_readWord (m : Memory) (j : Fin 14) : (readWord m j).toNat =
    (m.read (4 * j.val)).toNat + (m.read (4 * j.val + 1)).toNat * 2 ^ 8 +
      (m.read (4 * j.val + 2)).toNat * 2 ^ 16 + (m.read (4 * j.val + 3)).toNat * 2 ^ 24 := by
  rw [readWord, toNat_append_byte, toNat_append_byte, toNat_append_byte, wordBase]
  omega

/-- A sum over `4n` numbers, four at a time. -/
theorem sum_range_four_mul (g : Nat → Nat) (n : Nat) : ∑ i ∈ Finset.range (4 * n), g i =
    ∑ j ∈ Finset.range n, (g (4 * j) + g (4 * j + 1) + g (4 * j + 2) + g (4 * j + 3)) := by
  induction n with
  | zero => rfl
  | succ n ih =>
    rw [Finset.sum_range_succ _ n, ← ih, Nat.mul_succ]
    simp only [Finset.sum_range_succ, Nat.add_assoc]

/-- What byte `a` of IOBUF adds to the integer of the 56 bytes (rule R62). -/
def byteWeight (m : Memory) (a : Nat) : Nat := (m.read a).toNat * 2 ^ (8 * a)

/-- A word, at its place in the integer, is what its four bytes add. -/
theorem wordWeight_eq (m : Memory) (j : Fin 14) : (readWord m j).toNat * 2 ^ (32 * j.val) =
    byteWeight m (4 * j.val) + byteWeight m (4 * j.val + 1) + byteWeight m (4 * j.val + 2) +
      byteWeight m (4 * j.val + 3) := by
  rw [toNat_readWord]
  simp only [byteWeight]
  ring

/-- The integer of the 56 bytes is the sum of the 14 words (rule R63). -/
theorem bytesVal_readBytes (m : Memory) : bytesVal (readBytes m) =
    ∑ j : Fin 14, (readWord m j).toNat * 2 ^ (32 * j.val) := by
  calc bytesVal (readBytes m)
      = ∑ i : Fin 56, byteWeight m i.val := by rw [bytesVal_eq_sum]; simp [readBytes, byteWeight]
    _ = ∑ i ∈ Finset.range (4 * 14), byteWeight m i := (Finset.sum_range (byteWeight m)).symm
    _ = ∑ j : Fin 14, (byteWeight m (4 * j.val) + byteWeight m (4 * j.val + 1) +
          byteWeight m (4 * j.val + 2) + byteWeight m (4 * j.val + 3)) := by
        rw [sum_range_four_mul, Finset.sum_range]
    _ = ∑ j : Fin 14, (readWord m j).toNat * 2 ^ (32 * j.val) := by simp only [wordWeight_eq]

/-- Whether a codec command is in flight, by the word in PEND (rule R76). -/
theorem codecInFlight_of_pend {s : State} {v : Word} (hb : s.status.busy = true)
    (hp : s.pend = some v) :
    codecInFlight s = true ↔ opField v = 0x30#8 ∨ opField v = 0x31#8 := by
  simp [codecInFlight, hp, hb]

theorem codecInFlight_of_idle {s : State} (hb : s.status.busy = false) : codecInFlight s = false := by
  rw [codecInFlight]
  split <;> simp [hb]

/-- With no codec command in flight a read of IOBUF returns the contents. -/
theorem hostRead_iobuf_contents (j : Fin 14) {s : State} (h : codecInFlight s = false) :
    hostRead (.iobuf j) s = answer (.okayData (readWord s.iobuf j)) s := by
  simp [hostRead, readIobuf, h]

/-- With one in flight it returns a draw. -/
theorem hostRead_iobuf_draw (j : Fin 14) {s : State} (h : codecInFlight s = true) :
    hostRead (.iobuf j) s =
      { answer (.okayData (Config.freeWord s.draws)) s with draws := s.draws + 1 } := by
  simp [hostRead, readIobuf, h]

/-- A write of IOBUF in an idle unit. -/
theorem hostWrite_iobuf_idle (j : Fin 14) (v : Word) {s : State} (hb : s.status.busy = false) :
    hostWrite (.iobuf j) v s = answer .okay (s.setIobuf (writeWord s.iobuf j v)) := by
  simp [hostWrite, writeIobuf, hb]

/-- Settles O40: what `writeWord` and `readWord` do to the bytes. -/
theorem iobufWordsAreLittleEndian : Obligations.IobufWordsAreLittleEndian := by
  intro j v s hwf
  refine ⟨fun hb => ?_, fun hb => ?_, bytesVal_readBytes s.iobuf⟩
  · refine ⟨_, hostAccess_memWrite v (iobuf_offset_lt j) (windowReg_iobuf j) s, ?_⟩
    have hbase : 4 * j.val = wordBase j := rfl
    rw [hostWrite_iobuf_idle j v hb, hbase, answer_iobuf, State.setIobuf_iobuf]
    have hread := fun a => read_writeWord s.iobuf j v a hwf
    refine ⟨?_, ?_, ?_, ?_, fun a ha => ?_, wf_writeWord _ j v hwf, .of_eq rfl rfl rfl rfl rfl rfl⟩
    · simp [hread]
    · simp [hread]
    · simp [hread]
    · simp [hread]
    · rw [hread, if_neg, if_neg, if_neg, if_neg] <;> omega
  · refine ⟨_, _, hostAccess_memRead (iobuf_offset_lt j) (windowReg_iobuf j) s,
      hostRead_sameUnit _ s, ?_, toNat_readWord s.iobuf j⟩
    rw [hostRead_iobuf_contents j (codecInFlight_of_idle hb), answer_response]

/-- Settles O41: a read of IOBUF is a draw exactly while a codec command is in flight. -/
theorem iobufReadDuringCodecIsFree : Obligations.IobufReadDuringCodecIsFree := by
  intro j v s hb hp
  have hcodec := codecInFlight_of_pend hb hp
  have hread := hostAccess_memRead (iobuf_offset_lt j) (windowReg_iobuf j) s
  refine ⟨fun hop => ⟨_, hread, hostRead_sameUnit _ s, ?_⟩,
    fun h30 h31 => ⟨_, hread, hostRead_sameUnit _ s, ?_⟩⟩
  · rw [hostRead_iobuf_draw j (hcodec.2 hop)]
    exact ⟨rfl, rfl⟩
  · have hno : codecInFlight s = false :=
      Bool.eq_false_iff.2 fun hc => (hcodec.1 hc).elim h30 h31
    rw [hostRead_iobuf_contents j hno]
    exact ⟨rfl, rfl⟩

/-! ### The command in flight (rules R72, R74) -/

/-- The unit's step with a command in flight is the command's meaning. -/
theorem unitStep_of_pend {s : State} {v : Word} {i : Instr} (hp : s.pend = some v)
    (hd : decode v = .ok i) : unitStep s = exec i s := by
  simp [unitStep, hp, hd]

theorem doMove_complete {s : State} (hr : s.rstN = true) : doMove .complete s = unitStep s :=
  if_pos hr

theorem step_of_agenda_nil {s : State} (ha : s.agenda = []) : step s = doMove .complete s := by
  rw [step, nextMove, ha]

theorem step_of_agenda_cons {s : State} {m : Move} {rest : List Move} (ha : s.agenda = m :: rest) :
    step s = doMove m (s.setAgenda rest) := by
  rw [step, nextMove, ha]

/-- Settles O9: the next move is the unit's, and its step is the command's meaning. -/
theorem stepPerformsTheCommandInFlight : Obligations.StepPerformsTheCommandInFlight := by
  intro s v i hd
  refine ⟨fun hr hp ha => ?_, fun rest hr hp ha => ?_, ?_⟩
  · rw [step_of_agenda_nil ha, doMove_complete hr, unitStep_of_pend hp hd]
  · rw [step_of_agenda_cons ha, doMove_complete (s := s.setAgenda rest) hr,
      unitStep_of_pend (s := s.setAgenda rest) hp hd]
  · have hv : BitVec.ofNat 32 (v.toNat % 2 ^ 32) = v := by
      rw [Nat.mod_eq_of_lt v.isLt, BitVec.ofNat_toNat, BitVec.setWidth_eq]
    rw [State.withFetchWord, hv, step_of_agenda_cons (placeCommand_agenda v s), doMove_complete rfl,
      unitStep_of_pend (v := v) rfl hd]
    rfl

/-- Every command completes: what `exec_forms` says it does ends in `finish`. -/
theorem exec_answers (i : Instr) (s : State) : ∃ t, exec i s = .next t := by
  obtain ⟨_, _, h, -⟩ | ⟨_, _, _, _, h, -⟩ | ⟨_, _, _, h, -⟩ | ⟨_, h, -⟩ := exec_forms i s <;>
    exact ⟨_, h⟩

theorem writeCmd_accepted {v : Word} {s : State} (hb : s.status.busy = false)
    (hv : check v = .none) : writeCmd v s = acceptCommand v (sampleCommand v s) := by
  simp [writeCmd, hb, hv]

theorem writeCmd_rejected {v : Word} {s : State} (hb : s.status.busy = false)
    (hv : check v ≠ .none) : writeCmd v s = raiseCmdError (check v) (sampleCommand v s) := by
  simp [writeCmd, hb, hv]

theorem writeCmd_busy (v : Word) {s : State} (hb : s.status.busy = true) :
    writeCmd v s = raiseCmdError .busyWrite s := by
  simp [writeCmd, hb]

/-- Settles O36: the three outcomes of a CMD write, and the unit's step. -/
theorem commandLifeCycle : Obligations.CommandLifeCycle := by
  intro v s
  have hwrite : hostAccess (memWrite 0x00 v) s = .next (answer .okay (writeCmd v s)) :=
    hostAccess_memWrite (r := .cmd) v (show 0x00 < 0x80 by decide) rfl s
  refine ⟨fun hb hv => ⟨_, hwrite, ?_⟩, fun hb hv => ⟨_, hwrite, ?_⟩, fun hb => ⟨_, hwrite, ?_⟩,
    fun hp => ?_, fun w i hp hd => ⟨unitStep_of_pend hp hd, ?_⟩⟩
  · rw [writeCmd_accepted hb hv]
    exact ⟨rfl, rfl, rfl, fun _ => rfl, rfl, rfl, rfl⟩
  · rw [writeCmd_rejected hb hv]
    exact ⟨rfl, rfl, hb, rfl, rfl, rfl⟩
  · rw [writeCmd_busy v hb]
    exact ⟨rfl, rfl, rfl⟩
  · rw [unitStep, hp]
  · obtain ⟨t, ht⟩ := exec_answers i s
    obtain ⟨hc, -⟩ := exec_next ht
    exact ⟨t, (unitStep_of_pend hp hd).trans ht, hc.pend, hc.busy, hc.done⟩

/-! ### Registers that overlap (rules R82, R314) -/

/-- A command form that writes into its destination a function of its sources' values. -/
def WritesFunctionOfSources (f : Reg → Reg → Reg → Instr) : Prop :=
  ∃ g : FE → FE → FE, ∀ rd a b s,
    exec (f rd a b) s = finishWrite rd (g (s.readFr a) (s.readFr b)) s

theorem WritesFunctionOfSources.result_eq {f : Reg → Reg → Reg → Instr}
    (hf : WritesFunctionOfSources f) {rd a b rd' a' b' : Reg} {s s' t t' : State}
    (ha : s.readFr a = s'.readFr a') (hb : s.readFr b = s'.readFr b')
    (h : exec (f rd a b) s = .next t) (h' : exec (f rd' a' b') s' = .next t') :
    t.readFr rd = t'.readFr rd' := by
  obtain ⟨g, hg⟩ := hf
  rw [hg] at h h'
  obtain ⟨hreg, -⟩ := finishWrite_next h
  obtain ⟨hreg', -⟩ := finishWrite_next h'
  rw [hreg, hreg', if_pos rfl, if_pos rfl, ha, hb]

/-- Settles O32: each of the ten forms writes a function of its sources' values. -/
theorem registerOverlapIsSafe : Obligations.RegisterOverlapIsSafe := by
  intro f hf
  have hw : WritesFunctionOfSources f := by
    obtain rfl | rfl | rfl | rfl | rfl | rfl | rfl | rfl | rfl | ⟨w, rfl⟩ := hf
    · exact ⟨fun x y => reduceFn (addLimbs x y), fun _ _ _ _ => rfl⟩
    · exact ⟨fun x y => reduceFn (subLimbs x y), fun _ _ _ _ => rfl⟩
    · exact ⟨mulFn, fun _ _ _ _ => rfl⟩
    · exact ⟨fun x _ => x, fun _ _ _ _ => rfl⟩
    · exact ⟨fun x _ => reduceFn x, fun _ _ _ _ => rfl⟩
    · exact ⟨fun x _ => canonFn x, fun _ _ _ _ => rfl⟩
    · exact ⟨fun x _ => mulFn x x, fun _ _ _ _ => rfl⟩
    · exact ⟨fun x _ => isqrtFn x, fun _ _ _ _ => rfl⟩
    · exact ⟨fun x _ => invFn x, fun _ _ _ _ => rfl⟩
    · exact ⟨fun x _ => mulFn x (smallOperand w), fun _ _ _ _ => rfl⟩
  exact fun rd a b rd' a' b' s s' t t' ha hb h h' => hw.result_eq ha hb h h'

end Sys2Proof.Machine

/-! ## The command word (spec/30_encoding.md) -/

namespace Sys2Proof.Machine

/-! ### The fields of a word and the words of fields (rules R91, R92) -/

theorem toNat_zero_append {n m : Nat} (x : BitVec m) : (0#n ++ x).toNat = x.toNat := by
  simp [BitVec.toNat_append]

/-- The bits of a word from `lo` up are 0 exactly when the word is below `2^lo`. -/
theorem shiftRight_eq_zero_iff (v : Word) (lo : Nat) : v >>> lo = 0#32 ↔ v.toNat < 2 ^ lo := by
  rw [← BitVec.toNat_inj, BitVec.toNat_ushiftRight, Nat.shiftRight_eq_div_pow, BitVec.toNat_zero,
    Nat.div_eq_zero_iff_lt (Nat.two_pow_pos lo)]

theorem layout_shiftRight {hi : BitVec 16} {n : Nat} (h : hi.toNat < 2 ^ n) (rs1 rd : BitVec 4)
    (op : BitVec 8) : layout hi rs1 rd op >>> (16 + n) = 0#32 := by
  have h2 := rs1.isLt
  have h3 := rd.isLt
  have h4 := op.isLt
  rw [shiftRight_eq_zero_iff, layout_toNat, pow_add]
  omega

/-- The lowest `n` bits of IMM16's place are those laid down there. -/
theorem extractLsb'_sixteen_layout (hi : BitVec 16) (rs1 rd : BitVec 4) (op : BitVec 8) (n : Nat) :
    (layout hi rs1 rd op).extractLsb' 16 n = hi.setWidth n := by
  have h2 := rs1.isLt
  have h3 := rd.isLt
  have h4 := op.isLt
  apply BitVec.eq_of_toNat_eq
  rw [BitVec.extractLsb'_toNat, layout_toNat, Nat.shiftRight_eq_div_pow, BitVec.toNat_setWidth]
  congr 1
  omega

theorem rs2Field_layout (x rs1 rd : BitVec 4) (op : BitVec 8) :
    rs2Field (layout (0#12 ++ x) rs1 rd op) = x.toFin := by
  rw [rs2Field, regField, extractLsb'_sixteen_layout]
  exact congrArg BitVec.toFin BitVec.setWidth_append_eq_right

theorem kField_layout (k : BitVec 2) (rs1 rd : BitVec 4) (op : BitVec 8) :
    kField (layout (0#14 ++ k) rs1 rd op) = k := by
  rw [kField, extractLsb'_sixteen_layout]
  exact BitVec.setWidth_append_eq_right

/-- S is bit 16 alone (rule R95). -/
theorem ofBool_swapField (v : Word) : BitVec.ofBool (swapField v) = v.extractLsb' 16 1 := by
  ext i hi
  obtain rfl : i = 0 := by omega
  simp [swapField, BitVec.getLsbD_eq_getElem]

theorem swapField_layout (s : Bool) (rs1 rd : BitVec 4) (op : BitVec 8) :
    swapField (layout (0#15 ++ BitVec.ofBool s) rs1 rd op) = s := by
  rw [← BitVec.ofBool_eq_iff_eq, ofBool_swapField, extractLsb'_sixteen_layout]
  exact BitVec.setWidth_append_eq_right

/-- A register field as bits is the bits it was read from (rule R93). -/
theorem regBits_regField (v : Word) (lo : Nat) : regBits (regField v lo) = v.extractLsb' lo 4 := by
  apply BitVec.eq_of_toNat_eq
  simp [regBits, regField]

/-- A word is the layout of its fields (rule R91). -/
theorem layout_fields (v : Word) :
    layout (immField v) (regBits (rs1Field v)) (regBits (rdField v)) (opField v) = v := by
  have hv := v.isLt
  apply BitVec.eq_of_toNat_eq
  rw [layout_toNat, rs1Field, rdField, regBits_regField, regBits_regField]
  simp only [immField, opField, BitVec.extractLsb'_toNat, Nat.shiftRight_eq_div_pow]
  omega

/-- IMM16 with its bits from `n` up 0 is the field of its lowest `n` bits, extended by zeros. -/
theorem immField_eq_of_shiftRight {v : Word} {n : Nat} (h : v >>> (16 + n) = 0#32) {x : BitVec 16}
    (hx : x.toNat = (v.extractLsb' 16 n).toNat) : immField v = x := by
  have hv := v.isLt
  rw [shiftRight_eq_zero_iff, pow_add] at h
  apply BitVec.eq_of_toNat_eq
  rw [hx, immField, BitVec.extractLsb'_toNat, BitVec.extractLsb'_toNat, Nat.shiftRight_eq_div_pow,
    Nat.mod_eq_of_lt (by omega), Nat.mod_eq_of_lt (by omega)]

/-! ### Every command decodes from its word (rules R90 to R98, R100) -/

theorem decodeFrom_ok {v : Word} {lo : Nat} (h : v >>> lo = 0#32) (i : Instr) :
    decodeFrom v lo i = .ok i := by
  rw [decodeFrom, if_neg (not_not_intro h)]

/-- A word with nothing laid down from `16 + n` up passes the decoder's test of those bits (rule R97). -/
theorem decodeFrom_layout {hi : BitVec 16} {n : Nat} (h : hi.toNat < 2 ^ n) (rs1 rd : BitVec 4)
    (op : BitVec 8) (i : Instr) : decodeFrom (layout hi rs1 rd op) (16 + n) i = .ok i :=
  decodeFrom_ok (layout_shiftRight h rs1 rd op) i

theorem zero_append_lt {n m : Nat} (x : BitVec m) : (0#n ++ x).toNat < 2 ^ m :=
  (toNat_zero_append x).trans_lt x.isLt

/-- Format RR: the decoder's test passes and both fields read back. -/
theorem decodeFrom_rr (f : Reg → Reg → Instr) (rd rs1 : Reg) (op : BitVec 8) :
    let v := layout 0#16 (regBits rs1) (regBits rd) op
    decodeFrom v 16 (f (rdField v) (rs1Field v)) = .ok (f rd rs1) := by
  simp only [rdField_layout, rs1Field_layout, regBits_toFin]
  exact decodeFrom_layout (n := 0) (by decide) ..

/-- Format RRR: the decoder's test passes and the three fields read back. -/
theorem decodeFrom_rrr (f : Reg → Reg → Reg → Instr) (rd rs1 rs2 : Reg) (op : BitVec 8) :
    let v := layout (0#12 ++ regBits rs2) (regBits rs1) (regBits rd) op
    decodeFrom v 20 (f (rdField v) (rs1Field v) (rs2Field v)) = .ok (f rd rs1 rs2) := by
  simp only [rdField_layout, rs1Field_layout, rs2Field_layout, regBits_toFin]
  exact decodeFrom_layout (n := 4) (zero_append_lt (n := 12) (regBits rs2)) ..

theorem decodeFrom_cswap (ra rb : Reg) (swap : Bool) :
    let v := encode (.cswap ra rb swap)
    decodeFrom v 17 (.cswap (rdField v) (rs1Field v) (swapField v)) = .ok (.cswap ra rb swap) := by
  simp only [encode, rdField_layout, rs1Field_layout, swapField_layout, regBits_toFin]
  exact decodeFrom_layout (n := 1) (zero_append_lt (n := 15) (BitVec.ofBool swap)) ..

theorem decodeFrom_frombytes (rd : Reg) :
    let v := encode (.frombytes rd)
    decodeFrom v 12 (.frombytes (rdField v)) = .ok (.frombytes rd) := by
  have hv : encode (.frombytes rd) >>> 12 = 0#32 := by
    have := (regBits rd).isLt
    rw [encode, shiftRight_eq_zero_iff, layout_toNat]
    simp only [BitVec.toNat_ofNat]
    omega
  have hrd : rdField (encode (.frombytes rd)) = rd := (rdField_layout ..).trans (regBits_toFin rd)
  simp only [decodeFrom_ok hv, hrd]

theorem decodeLdc_encode (rd : Reg) (k : RomConst) :
    decodeLdc (encode (.ldc rd k)) = .ok (.ldc rd k) := by
  have hrs1 : (encode (.ldc rd k)).extractLsb' 12 4 = 0#4 := by
    rw [← regBits_regField, ← rs1Field, encode, rs1Field_layout]; rfl
  have htop : encode (.ldc rd k) >>> 18 = 0#32 :=
    layout_shiftRight (n := 2) (zero_append_lt (n := 14) (romBits k)) _ _ _
  have hk : kField (encode (.ldc rd k)) = romBits k := kField_layout ..
  have hrd : rdField (encode (.ldc rd k)) = rd := (rdField_layout ..).trans (regBits_toFin rd)
  rw [decodeLdc, hrs1, htop, hk, hrd]
  cases k <;> rfl

theorem decodeMulw_encode (rd rs1 : Reg) {w : BitVec 16} (hw : w ≠ 0#16) :
    decodeMulw (encode (.mulw rd rs1 w)) = .ok (.mulw rd rs1 w) := by
  simp [decodeMulw, encode, immField_layout, rdField_layout, rs1Field_layout, regBits_toFin, hw]

theorem decodeTobytes_encode (rs1 : Reg) :
    decodeTobytes (encode (.tobytes rs1)) = .ok (.tobytes rs1) := by
  have hrd : (encode (.tobytes rs1)).extractLsb' 8 4 = 0#4 := by
    rw [← regBits_regField, ← rdField, encode, rdField_layout]; rfl
  rw [decodeTobytes, if_neg (not_not_intro hrd), encode, rs1Field_layout, regBits_toFin]
  exact decodeFrom_layout (n := 0) (by decide) ..

/-- Settles O1: OP selects the command, every field reads back, and no reserved bit is set. -/
theorem decodeOfEncodeIsIdentity : Obligations.DecodeOfEncodeIsIdentity := by
  intro i hwf
  have hop : opField (encode i) = i.opcode := by cases i <;> exact opField_layout ..
  rw [decode, hop]
  cases i with
  | copy rd rs1 => exact decodeFrom_rr .copy rd rs1 _
  | reduce rd rs1 => exact decodeFrom_rr .reduce rd rs1 _
  | canon rd rs1 => exact decodeFrom_rr .canon rd rs1 _
  | ldc rd k => exact decodeLdc_encode rd k
  | add rd rs1 rs2 => exact decodeFrom_rrr .add rd rs1 rs2 _
  | sub rd rs1 rs2 => exact decodeFrom_rrr .sub rd rs1 rs2 _
  | mul rd rs1 rs2 => exact decodeFrom_rrr .mul rd rs1 rs2 _
  | sqr rd rs1 => exact decodeFrom_rr .sqr rd rs1 _
  | cswap ra rb swap => exact decodeFrom_cswap ra rb swap
  | mulw rd rs1 w => exact decodeMulw_encode rd rs1 (by simpa [Instr.wf] using hwf)
  | isqrt rd rs1 => exact decodeFrom_rr .isqrt rd rs1 _
  | inv rd rs1 => exact decodeFrom_rr .inv rd rs1 _
  | frombytes rd => exact decodeFrom_frombytes rd
  | tobytes rs1 => exact decodeTobytes_encode rs1

/-! ### The decoder and the acceptance check agree (rules R97, R99, R103) -/

/-- The mask of the `n` bits from `lo` up. -/
def fieldMask (lo n : Nat) : Word := (BitVec.allOnes n).setWidth 32 <<< lo

theorem getLsbD_and_fieldMask (v : Word) (lo n k : Nat) : (v &&& fieldMask lo n).getLsbD k =
    (decide (lo ≤ k) && (v.extractLsb' lo n).getLsbD (k - lo)) := by
  by_cases hlo : lo ≤ k
  · by_cases hk : k < 32
    · simp [fieldMask, hlo, hk, Nat.not_lt.2 hlo, Bool.and_comm]
    · simp [hlo, BitVec.getLsbD_of_ge _ _ (Nat.not_lt.1 hk)]
  · simp [fieldMask, hlo, Nat.lt_of_not_le hlo]

/-- A mask finds nothing exactly where its field is 0. -/
theorem and_fieldMask_eq_zero_iff (v : Word) (lo n : Nat) :
    v &&& fieldMask lo n = 0#32 ↔ v.extractLsb' lo n = 0#n := by
  constructor
  · intro h
    refine BitVec.eq_of_getLsbD_eq fun i _ => ?_
    simpa [h] using (getLsbD_and_fieldMask v lo n (lo + i)).symm
  · intro h
    exact BitVec.eq_of_getLsbD_eq fun k _ => by
      rw [getLsbD_and_fieldMask, h, BitVec.getLsbD_zero, BitVec.getLsbD_zero, Bool.and_false]

theorem and_or_eq_zero_iff (v m m' : Word) :
    v &&& (m ||| m') = 0#32 ↔ v &&& m = 0#32 ∧ v &&& m' = 0#32 := by
  rw [BitVec.and_or_distrib_left, BitVec.or_eq_zero_iff]

/-- The field of all bits from `lo` up. -/
theorem and_fieldMask_top_eq_zero_iff (v : Word) (lo : Nat) :
    v &&& fieldMask lo (32 - lo) = 0#32 ↔ v >>> lo = 0#32 := by
  have hv : v.toNat / 2 ^ lo < 2 ^ (32 - lo) := by
    refine Nat.div_lt_of_lt_mul (v.isLt.trans_le ?_)
    rw [← pow_add]
    exact Nat.pow_le_pow_right (by decide) (by omega)
  rw [and_fieldMask_eq_zero_iff, ← BitVec.toNat_inj, ← BitVec.toNat_inj, BitVec.extractLsb'_toNat,
    BitVec.toNat_ushiftRight, Nat.shiftRight_eq_div_pow, Nat.mod_eq_of_lt hv, BitVec.toNat_zero,
    BitVec.toNat_zero]

theorem resMask_rr (v : Word) : v &&& resMask .rr = 0#32 ↔ v >>> 16 = 0#32 :=
  and_fieldMask_top_eq_zero_iff v 16

theorem resMask_rrr (v : Word) : v &&& resMask .rrr = 0#32 ↔ v >>> 20 = 0#32 :=
  and_fieldMask_top_eq_zero_iff v 20

theorem resMask_sw (v : Word) : v &&& resMask .sw = 0#32 ↔ v >>> 17 = 0#32 :=
  and_fieldMask_top_eq_zero_iff v 17

theorem resMask_d (v : Word) : v &&& resMask .d = 0#32 ↔ v >>> 12 = 0#32 :=
  and_fieldMask_top_eq_zero_iff v 12

theorem resMask_rk (v : Word) :
    v &&& resMask .rk = 0#32 ↔ v.extractLsb' 12 4 = 0#4 ∧ v >>> 18 = 0#32 := by
  rw [← and_fieldMask_eq_zero_iff, ← and_fieldMask_top_eq_zero_iff, ← and_or_eq_zero_iff]
  rfl

theorem resMask_s (v : Word) :
    v &&& resMask .s = 0#32 ↔ v.extractLsb' 8 4 = 0#4 ∧ v >>> 16 = 0#32 := by
  rw [← and_fieldMask_eq_zero_iff, ← and_fieldMask_top_eq_zero_iff, ← and_or_eq_zero_iff]
  rfl

theorem resMask_ri (v : Word) : v &&& resMask .ri = 0#32 := BitVec.and_zero

/-- What the decoder's answer for a word must be beside the check's: the command whose word it is, or
the code the check rejects it by. -/
def Agrees (v : Word) : Except ErrCode Instr → Prop
  | .ok i => check v = .none ∧ encode i = v ∧ i.wf = true
  | .error c => check v = c ∧ c ≠ .none

/-- The operands of rule R264: FE.MULW's multiplier 0 and FE.LDC's selector 3. -/
abbrev IllegalOperand (v : Word) : Prop :=
  (opField v = 0x15#8 ∧ immField v = 0#16) ∨ (opField v = 0x04#8 ∧ kField v = 3#2)

/-- The check of a word with an assigned opcode (rule R103). -/
theorem check_of_format {v : Word} {f : Format} (hf : formatOf (opField v) = some f) :
    check v = if v &&& resMask f ≠ 0#32 then .reservedField
      else if IllegalOperand v then .illegalOperand else .none := by
  simp only [check, hf, IllegalOperand, ite_or]

/-- The check of a word with an unassigned opcode (rule R99). -/
theorem check_of_unassigned {v : Word} (hf : formatOf (opField v) = none) :
    check v = .illegalOpcode := by
  simp only [check, hf]

theorem check_of_reserved {v : Word} {f : Format} (hf : formatOf (opField v) = some f)
    (h : v &&& resMask f ≠ 0#32) : check v = .reservedField := by
  rw [check_of_format hf, if_pos h]

theorem check_of_illegalOperand {v : Word} {f : Format} (hf : formatOf (opField v) = some f)
    (h : v &&& resMask f = 0#32) (hi : IllegalOperand v) : check v = .illegalOperand := by
  rw [check_of_format hf, if_neg (not_not_intro h), if_pos hi]

theorem check_of_passes {v : Word} {f : Format} (hf : formatOf (opField v) = some f)
    (h : v &&& resMask f = 0#32) (hi : ¬IllegalOperand v) : check v = .none := by
  rw [check_of_format hf, if_neg (not_not_intro h), if_neg hi]

/-- The commands with no operand of their own to refuse: all but FE.MULW and FE.LDC. -/
theorem agrees_decodeFrom {v : Word} {f : Format} {lo : Nat} {i : Instr}
    (hf : formatOf (opField v) = some f) (hri : f ≠ .ri) (hrk : f ≠ .rk)
    (hres : v &&& resMask f = 0#32 ↔ v >>> lo = 0#32) (henc : v >>> lo = 0#32 → encode i = v)
    (hwf : i.wf = true) : Agrees v (decodeFrom v lo i) := by
  by_cases h : v >>> lo = 0#32
  · have h15 : opField v ≠ 0x15#8 := fun e => hri (Option.some.inj (by rw [← hf, e]; rfl))
    have h04 : opField v ≠ 0x04#8 := fun e => hrk (Option.some.inj (by rw [← hf, e]; rfl))
    rw [decodeFrom_ok h]
    exact ⟨check_of_passes hf (hres.2 h) (by simp [h15, h04]), henc h, hwf⟩
  · rw [decodeFrom, if_pos h]
    exact ⟨check_of_reserved hf (mt hres.1 h), by decide⟩

theorem agrees_rr {v : Word} {op : BitVec 8} (hop : opField v = op) (hf : formatOf op = some .rr)
    {i : Instr} (henc : encode i = layout 0#16 (regBits (rs1Field v)) (regBits (rdField v)) op)
    (hwf : i.wf = true) : Agrees v (decodeFrom v 16 i) := by
  refine agrees_decodeFrom (hop ▸ hf) (by decide) (by decide) (resMask_rr v) (fun h => ?_) hwf
  have himm : immField v = 0#16 := immField_eq_of_shiftRight (n := 0) h (by simp)
  rw [henc, ← himm, ← hop, layout_fields]

theorem agrees_rrr {v : Word} {op : BitVec 8} (hop : opField v = op) (hf : formatOf op = some .rrr)
    {i : Instr} (henc : encode i =
      layout (0#12 ++ regBits (rs2Field v)) (regBits (rs1Field v)) (regBits (rdField v)) op)
    (hwf : i.wf = true) : Agrees v (decodeFrom v 20 i) := by
  refine agrees_decodeFrom (hop ▸ hf) (by decide) (by decide) (resMask_rrr v) (fun h => ?_) hwf
  have himm : immField v = 0#12 ++ regBits (rs2Field v) :=
    immField_eq_of_shiftRight (n := 4) h (by rw [toNat_zero_append, rs2Field, regBits_regField])
  rw [henc, ← himm, ← hop, layout_fields]

theorem agrees_cswap {v : Word} (hop : opField v = 0x14#8) :
    Agrees v (decodeFrom v 17 (.cswap (rdField v) (rs1Field v) (swapField v))) := by
  refine agrees_decodeFrom (hop ▸ rfl) (by decide) (by decide) (resMask_sw v) (fun h => ?_) rfl
  have himm : immField v = 0#15 ++ BitVec.ofBool (swapField v) :=
    immField_eq_of_shiftRight (n := 1) h (by rw [toNat_zero_append, ofBool_swapField])
  rw [encode, ← himm, ← hop, layout_fields]

theorem agrees_frombytes {v : Word} (hop : opField v = 0x30#8) :
    Agrees v (decodeFrom v 12 (.frombytes (rdField v))) := by
  refine agrees_decodeFrom (hop ▸ rfl) (by decide) (by decide) (resMask_d v) (fun h => ?_) rfl
  rw [shiftRight_eq_zero_iff] at h
  have himm : immField v = 0#16 :=
    immField_eq_of_shiftRight (n := 0) ((shiftRight_eq_zero_iff v 16).2 (by omega)) (by simp)
  have hrs1 : regBits (rs1Field v) = 0#4 := by
    apply BitVec.eq_of_toNat_eq
    rw [rs1Field, regBits_regField, BitVec.extractLsb'_toNat, Nat.shiftRight_eq_div_pow]
    simp only [BitVec.toNat_ofNat]
    omega
  rw [encode, ← himm, ← hrs1, ← hop, layout_fields]

theorem agrees_tobytes {v : Word} (hop : opField v = 0x31#8) : Agrees v (decodeTobytes v) := by
  have hf : formatOf (opField v) = some .s := hop ▸ rfl
  rw [decodeTobytes]
  split
  case isTrue hrd =>
    exact ⟨check_of_reserved hf fun c => hrd ((resMask_s v).1 c).1, by decide⟩
  case isFalse hrd =>
    have hrd0 := not_not.1 hrd
    refine agrees_decodeFrom hf (by decide) (by decide) ?_ (fun h => ?_) rfl
    · rw [resMask_s, hrd0]; simp
    · have himm : immField v = 0#16 := immField_eq_of_shiftRight (n := 0) h (by simp)
      rw [← regBits_regField, ← rdField] at hrd0
      rw [encode, ← himm, ← hrd0, ← hop, layout_fields]

theorem agrees_mulw {v : Word} (hop : opField v = 0x15#8) : Agrees v (decodeMulw v) := by
  have hf : formatOf (opField v) = some .ri := hop ▸ rfl
  rw [decodeMulw]
  split
  case isTrue hw => exact ⟨check_of_illegalOperand hf (resMask_ri v) (.inl ⟨hop, hw⟩), by decide⟩
  case isFalse hw =>
    refine ⟨check_of_passes hf (resMask_ri v) (by simp [hop, hw]), ?_, ?_⟩
    · rw [encode, ← hop, layout_fields]
    · simpa [Instr.wf] using hw

theorem agrees_ldc_const {v : Word} (hop : opField v = 0x04#8) (hrs1 : v.extractLsb' 12 4 = 0#4)
    (htop : v >>> 18 = 0#32) {k : RomConst} (hk : kField v = romBits k) :
    Agrees v (.ok (.ldc (rdField v) k)) := by
  have himm : immField v = 0#14 ++ romBits k :=
    immField_eq_of_shiftRight (n := 2) htop (by rw [toNat_zero_append, ← hk, kField])
  have hk3 : kField v ≠ 3#2 := hk ▸ by cases k <;> decide
  refine ⟨check_of_passes (f := .rk) (hop ▸ rfl) ((resMask_rk v).2 ⟨hrs1, htop⟩)
    (by simp [hop, hk3]), ?_, rfl⟩
  rw [← regBits_regField, ← rs1Field] at hrs1
  rw [encode, ← himm, ← hrs1, ← hop, layout_fields]

theorem kField_eq_three {k : BitVec 2} (h0 : k ≠ 0#2) (h1 : k ≠ 1#2) (h2 : k ≠ 2#2) : k = 3#2 := by
  revert k; decide

theorem agrees_ldc {v : Word} (hop : opField v = 0x04#8) : Agrees v (decodeLdc v) := by
  have hf : formatOf (opField v) = some .rk := hop ▸ rfl
  rw [decodeLdc]
  split_ifs with hres h0 h1 h2
  · exact ⟨check_of_reserved hf (by rw [ne_eq, resMask_rk]; tauto), by decide⟩
  all_goals
    obtain ⟨hrs1, htop⟩ : v.extractLsb' 12 4 = 0#4 ∧ v >>> 18 = 0#32 := by tauto
  · exact agrees_ldc_const hop hrs1 htop h0
  · exact agrees_ldc_const hop hrs1 htop h1
  · exact agrees_ldc_const hop hrs1 htop h2
  · have hk := kField_eq_three h0 h1 h2
    exact ⟨check_of_illegalOperand hf ((resMask_rk v).2 ⟨hrs1, htop⟩) (.inr ⟨hop, hk⟩), by decide⟩

theorem agrees_ite {v : Word} {c : Prop} [Decidable c] {a b : Except ErrCode Instr}
    (ha : c → Agrees v a) (hb : ¬c → Agrees v b) : Agrees v (if c then a else b) :=
  iteInduction ha hb

/-- The decoder and the check, opcode by opcode (rules R98, R99). -/
theorem decode_agrees (v : Word) : Agrees v (decode v) := by
  rw [decode]
  refine agrees_ite (agrees_rr · rfl rfl rfl) fun copy => ?_
  refine agrees_ite (agrees_rr · rfl rfl rfl) fun reduce => ?_
  refine agrees_ite (agrees_rr · rfl rfl rfl) fun canon => ?_
  refine agrees_ite agrees_ldc fun ldc => ?_
  refine agrees_ite (agrees_rrr · rfl rfl rfl) fun add => ?_
  refine agrees_ite (agrees_rrr · rfl rfl rfl) fun sub => ?_
  refine agrees_ite (agrees_rrr · rfl rfl rfl) fun mul => ?_
  refine agrees_ite (agrees_rr · rfl rfl rfl) fun sqr => ?_
  refine agrees_ite agrees_cswap fun cswap => ?_
  refine agrees_ite agrees_mulw fun mulw => ?_
  refine agrees_ite (agrees_rr · rfl rfl rfl) fun isqrt => ?_
  refine agrees_ite (agrees_rr · rfl rfl rfl) fun inv => ?_
  refine agrees_ite agrees_frombytes fun frombytes => ?_
  refine agrees_ite agrees_tobytes fun tobytes => ?_
  exact ⟨check_of_unassigned (by simp only [formatOf, *, if_false]), by decide⟩

theorem agrees_of_decode {v : Word} {r : Except ErrCode Instr} (h : decode v = r) : Agrees v r :=
  h ▸ decode_agrees v

/-- Settles O2: `decode_agrees` on a word that decodes. -/
theorem decodedWordIsItsEncoding : Obligations.DecodedWordIsItsEncoding := by
  intro v i h
  obtain ⟨-, henc, hwf⟩ := agrees_of_decode h
  exact ⟨henc, hwf⟩

/-- Settles O3: `decode_agrees`, what it says of the check. -/
theorem decodeRejectsAsCheckSays : Obligations.DecodeRejectsAsCheckSays := by
  intro v
  refine ⟨fun i h => ?_, fun c h => agrees_of_decode h⟩
  obtain ⟨hcheck, -⟩ := agrees_of_decode h
  exact hcheck

/-- A word the check rejects is refused by the decoder with the check's code. -/
theorem decode_eq_error {v : Word} {c : ErrCode} (h : check v = c) (hc : c ≠ .none) :
    decode v = .error c := by
  cases hd : decode v with
  | ok i =>
    obtain ⟨hcheck, -⟩ := agrees_of_decode hd
    exact absurd (h.symm.trans hcheck) hc
  | error c' =>
    obtain ⟨hcheck, -⟩ := agrees_of_decode hd
    rw [← hcheck, h]

/-! ### What is rejected, and what an assembler refuses (rules R97, R99, R101) -/

theorem ite_some_eq_none_iff {α : Type} {c : Prop} [Decidable c] {a : α} {o : Option α} :
    (if c then some a else o) = none ↔ ¬c ∧ o = none := by
  by_cases hc : c <;> simp [hc]

/-- The opcodes of rule R98 are those with a format. -/
theorem formatOf_eq_none_iff (op : BitVec 8) : formatOf op = none ↔
    ¬((0x01 ≤ op.toNat ∧ op.toNat ≤ 0x04) ∨ (0x10 ≤ op.toNat ∧ op.toNat ≤ 0x15) ∨
      op.toNat = 0x20 ∨ op.toNat = 0x21 ∨ op.toNat = 0x30 ∨ op.toNat = 0x31) := by
  simp only [formatOf, ite_some_eq_none_iff, and_true, ← BitVec.toNat_inj, BitVec.toNat_ofNat]
  omega

theorem check_ne_illegalOpcode {v : Word} {f : Format} (hf : formatOf (opField v) = some f) :
    check v ≠ .illegalOpcode := by
  rw [check_of_format hf]
  split_ifs <;> decide

/-- Settles O5: the unassigned opcodes are those without a format. -/
theorem unassignedOpcodesAreIllegal : Obligations.UnassignedOpcodesAreIllegal := by
  intro v op
  have hlt : op < 2 ^ 8 := (opField v).isLt
  have hnone : formatOf (opField v) = none ↔ _ := formatOf_eq_none_iff (opField v)
  refine ⟨fun hop => ?_, fun hop => ?_⟩
  · have hcheck : check v = .illegalOpcode := check_of_unassigned (hnone.2 (by omega))
    refine ⟨decode_eq_error hcheck (by decide), hcheck, fun s hb => ?_⟩
    rw [writeCmd_rejected hb (by rw [hcheck]; decide), hcheck]
  · obtain ⟨f, hf⟩ := Option.ne_none_iff_exists'.1 (mt hnone.1 (not_not_intro hop))
    exact check_ne_illegalOpcode hf

theorem check_eq_reservedField_iff {v : Word} {f : Format} (hf : formatOf (opField v) = some f) :
    check v = .reservedField ↔ v &&& resMask f ≠ 0#32 := by
  refine ⟨fun hcheck hmask => ?_, check_of_reserved hf⟩
  rw [check_of_format hf, if_neg (not_not_intro hmask)] at hcheck
  split_ifs at hcheck

/-- Settles O6: the check tests RESMASK before any operand. -/
theorem reservedBitsAreNeverIgnored : Obligations.ReservedBitsAreNeverIgnored := by
  intro v f hf
  refine ⟨(check_eq_reservedField_iff hf).symm, fun hmask => ?_⟩
  have hcheck := check_of_reserved hf hmask
  refine ⟨decode_eq_error hcheck (by decide), fun s hb => ?_⟩
  rw [writeCmd_rejected hb (by rw [hcheck]; decide), hcheck]

/-- Settles O4: each of the seven words, decoded. -/
theorem specExampleWordsDecode : Obligations.SpecExampleWordsDecode := by
  unfold Obligations.SpecExampleWordsDecode
  decide

/-! ### The assembler (rule R101) -/

theorem asmReg_some {o : AsmOperand} {r : Reg} (h : asmReg o = some r) : o = .reg r.val := by
  cases o with
  | reg n =>
    obtain ⟨hn, rfl⟩ : ∃ hn : n < 16, (⟨n, hn⟩ : Reg) = r := by simpa [asmReg] using h
    rfl
  | num n => cases h
  | name s => cases h

theorem asmConst_some {o : AsmOperand} {k : RomConst} (h : asmConst o = some k) :
    o = .name "zero" ∨ o = .name "one" ∨ o = .name "p" := by
  cases o with
  | name s =>
    rw [asmConst] at h
    split_ifs at h with hz ho hp
    · exact .inl (congrArg _ hz)
    · exact .inr (.inl (congrArg _ ho))
    · exact .inr (.inr (congrArg _ hp))
  | reg n => cases h
  | num n => cases h

theorem asmSwap_some {o : AsmOperand} {b : Bool} (h : asmSwap o = some b) :
    o = .num 0 ∨ o = .num 1 := by
  cases o with
  | num n =>
    rw [asmSwap] at h
    split_ifs at h with h0 h1
    · exact .inl (congrArg _ h0)
    · exact .inr (congrArg _ h1)
  | reg n => cases h
  | name s => cases h

theorem asmMultiplier_some {o : AsmOperand} {w : BitVec 16} (h : asmMultiplier o = some w) :
    ∃ n : Int, o = .num n ∧ 1 ≤ n ∧ n ≤ 65535 ∧ w = BitVec.ofInt 16 n := by
  cases o with
  | num n =>
    obtain ⟨⟨h1, h2⟩, hw⟩ : (1 ≤ n ∧ n ≤ 65535) ∧ BitVec.ofInt 16 n = w := by
      simpa [asmMultiplier] using h
    exact ⟨n, rfl, h1, h2, hw.symm⟩
  | reg n => cases h
  | name s => cases h

theorem ofInt_ne_zero {n : Int} (h1 : 1 ≤ n) (h2 : n ≤ 65535) : BitVec.ofInt 16 n ≠ 0#16 := by
  intro h
  have ht : (BitVec.ofInt 16 n).toNat = 0 := by rw [h]; rfl
  rw [BitVec.toNat_ofInt] at ht
  omega

/-- What an assembler answers has an encoding, and every register it was given is one of the sixteen
(rule R101). -/
def AsmSound (ops : List AsmOperand) (i : Instr) : Prop :=
  i.wf = true ∧ ∀ n : Nat, .reg n ∈ ops → n < 16

theorem asmR_sound {f : Reg → Instr} (hf : ∀ d, (f d).wf = true) {ops : List AsmOperand} {i : Instr}
    (h : asmR f ops = some i) : AsmSound ops i := by
  unfold asmR at h
  split at h
  · simp only [Option.map_eq_some_iff] at h
    obtain ⟨d, hd, rfl⟩ := h
    rw [asmReg_some hd]
    exact ⟨hf d, by simp⟩
  · cases h

theorem asmRR_sound {f : Reg → Reg → Instr} (hf : ∀ d s, (f d s).wf = true) {ops : List AsmOperand}
    {i : Instr} (h : asmRR f ops = some i) : AsmSound ops i := by
  unfold asmRR at h
  split at h
  · simp only [Option.bind_eq_some_iff, Option.map_eq_some_iff] at h
    obtain ⟨d, hd, s, hs, rfl⟩ := h
    rw [asmReg_some hd, asmReg_some hs]
    exact ⟨hf d s, by simp⟩
  · cases h

theorem asmRRR_sound {f : Reg → Reg → Reg → Instr} (hf : ∀ d s t, (f d s t).wf = true)
    {ops : List AsmOperand} {i : Instr} (h : asmRRR f ops = some i) : AsmSound ops i := by
  unfold asmRRR at h
  split at h
  · simp only [Option.bind_eq_some_iff, Option.map_eq_some_iff] at h
    obtain ⟨d, hd, s, hs, t, ht, rfl⟩ := h
    rw [asmReg_some hd, asmReg_some hs, asmReg_some ht]
    exact ⟨hf d s t, by simp⟩
  · cases h

theorem asmLdc_sound {ops : List AsmOperand} {i : Instr} (h : asmLdc ops = some i) : AsmSound ops i := by
  unfold asmLdc at h
  split at h
  · simp only [Option.bind_eq_some_iff, Option.map_eq_some_iff] at h
    obtain ⟨d, hd, k, hk, rfl⟩ := h
    rw [asmReg_some hd]
    refine ⟨rfl, ?_⟩
    obtain rfl | rfl | rfl := asmConst_some hk <;> simp
  · cases h

theorem asmCswap_sound {ops : List AsmOperand} {i : Instr} (h : asmCswap ops = some i) :
    AsmSound ops i := by
  unfold asmCswap at h
  split at h
  · simp only [Option.bind_eq_some_iff, Option.map_eq_some_iff] at h
    obtain ⟨a, ha, b, hb, s, hs, rfl⟩ := h
    rw [asmReg_some ha, asmReg_some hb]
    refine ⟨rfl, ?_⟩
    obtain rfl | rfl := asmSwap_some hs <;> simp
  · cases h

theorem asmMulw_sound {ops : List AsmOperand} {i : Instr} (h : asmMulw ops = some i) :
    AsmSound ops i := by
  unfold asmMulw at h
  split at h
  · simp only [Option.bind_eq_some_iff, Option.map_eq_some_iff] at h
    obtain ⟨d, hd, s, hs, w, hw, rfl⟩ := h
    obtain ⟨n, rfl, h1, h2, rfl⟩ := asmMultiplier_some hw
    rw [asmReg_some hd, asmReg_some hs]
    exact ⟨by simpa [Instr.wf] using ofInt_ne_zero h1 h2, by simp⟩
  · cases h

theorem ite_sound {ops : List AsmOperand} {c : Prop} [Decidable c] {a b : Option Instr}
    (ha : ∀ i, a = some i → AsmSound ops i) (hb : ∀ i, b = some i → AsmSound ops i) :
    ∀ i, (if c then a else b) = some i → AsmSound ops i := by
  split
  · exact ha
  · exact hb

/-- The assembler, mnemonic by mnemonic. -/
theorem assemble_sound (m : String) (ops : List AsmOperand) :
    ∀ i, assemble m ops = some i → AsmSound ops i := by
  have rr {f : Reg → Reg → Instr} (hf : ∀ d s, (f d s).wf = true) :
      ∀ i, asmRR f ops = some i → AsmSound ops i := fun _ => asmRR_sound hf
  have rrr {f : Reg → Reg → Reg → Instr} (hf : ∀ d s t, (f d s t).wf = true) :
      ∀ i, asmRRR f ops = some i → AsmSound ops i := fun _ => asmRRR_sound hf
  rw [assemble]
  refine ite_sound (rr fun _ _ => rfl) ?_
  refine ite_sound (rr fun _ _ => rfl) ?_
  refine ite_sound (rr fun _ _ => rfl) ?_
  refine ite_sound (fun _ => asmLdc_sound) ?_
  refine ite_sound (rrr fun _ _ _ => rfl) ?_
  refine ite_sound (rrr fun _ _ _ => rfl) ?_
  refine ite_sound (rrr fun _ _ _ => rfl) ?_
  refine ite_sound (rr fun _ _ => rfl) ?_
  refine ite_sound (fun _ => asmCswap_sound) ?_
  refine ite_sound (fun _ => asmMulw_sound) ?_
  refine ite_sound (rr fun _ _ => rfl) ?_
  refine ite_sound (rr fun _ _ => rfl) ?_
  refine ite_sound (fun _ => asmR_sound fun _ => rfl) ?_
  refine ite_sound (fun _ => asmR_sound fun _ => rfl) ?_
  exact fun _ h => nomatch h

/-- Settles O8: what is assembled is sound, and so are the operands of the three forms. -/
theorem assemblerRefusesWhatHasNoEncoding : Obligations.AssemblerRefusesWhatHasNoEncoding := by
  refine ⟨fun m ops i h => ?_, fun m ops n hn hmem => ?_, fun d s n hn => ?_, fun a b n h0 h1 => ?_,
    fun d k hz ho hp => ?_⟩
  · obtain ⟨hwf, -⟩ := assemble_sound _ _ _ h
    exact decodeOfEncodeIsIdentity i hwf
  · refine Option.eq_none_iff_forall_ne_some.2 fun i h => ?_
    obtain ⟨-, hregs⟩ := assemble_sound _ _ _ h
    exact absurd (hregs n hmem) (Nat.not_lt.2 hn)
  · have hw : asmMultiplier (.num n) = none := if_neg (by omega)
    change asmMulw [d, s, .num n] = none
    simp [asmMulw, hw]
  · have hs : asmSwap (.num n) = none := by simp [asmSwap, h0, h1]
    change asmCswap [a, b, .num n] = none
    simp [asmCswap, hs]
  · have hk : asmConst k = none := Option.eq_none_iff_forall_ne_some.2 fun c hc => by
      obtain h | h | h := asmConst_some hc <;> contradiction
    change asmLdc [d, k] = none
    simp [asmLdc, hk]

end Sys2Proof.Machine

/-! ## FE.MULW and `fe.neg` -/

namespace Sys2Proof.Machine

/-! ### The small multiplication (rule R157) -/

theorem nats_smallOperand (w : BitVec 16) (k : Fin 16) :
    nats (smallOperand w) k = if k = 0 then w.toNat else 0 := by
  have hw : w.toNat < 2 ^ 32 := w.isLt.trans (by decide)
  rw [nats_apply, smallOperand, Vec16.lane_build, apply_ite BitVec.toNat, BitVec.toNat_setWidth,
    Nat.mod_eq_of_lt hw]
  rfl

theorem val_smallOperand (w : BitVec 16) : val (smallOperand w) = w.toNat := by
  simp [val_eq_weigh, weigh, nats_smallOperand]

/-- Of the sixteen rows only the first adds anything. -/
theorem slots_smallOperand (f : Fin 16 → Nat) (w : BitVec 16) (m : Fin 16) :
    slots f (nats (smallOperand w)) 16 m = w.toNat * f m := by
  rw [slots, Finset.sum_range]
  simp [nats_smallOperand, turned]

/-- FE.MULW's result is the product (rule R157). -/
theorem elt_mulFn_smallOperand {x : FE} (h : WR x) (w : BitVec 16) :
    elt (mulFn x (smallOperand w)) = ((val x * w.toNat : Nat) : ZMod Config.P) := by
  rw [elt_mulFn_WR h (smallOperand_WR w), elt, elt, val_smallOperand, Nat.cast_mul]

/-- A factor of 16 bits leaves too little in slot 13 for a second carry into limb 15 (rule R157). -/
theorem mulFn_smallOperand_last_le {x : FE} (h : WR x) (w : BitVec 16) :
    nats (mulFn x (smallOperand w)) 15 ≤ 2 ^ 28 := by
  have hw := smallOperand_WR w
  rw [nats_mulFn h.le_mulBound hw.le_mulBound, natClean_chained_last]
  have hS13 : slots (nats x) (nats (smallOperand w)) 16 13 ≤ 2 ^ 16 * 0x1000001F := by
    rw [slots_smallOperand]
    exact Nat.mul_le_mul w.isLt.le (h.nats_le 13)
  have hc13 := chained_carry_le (slots_le h.le_mulBound hw.le_mulBound) 13
  have h14 := chained_fourteen_lt (slots (nats x) (nats (smallOperand w)) 16)
  generalize slots (nats x) (nats (smallOperand w)) 16 = S at *
  have hc : chainCarry (chained S) 14 = (chained S 13 + chainCarry (chained S) 13) / 2 ^ 28 := rfl
  rw [hc, chained_of_ne S (m := 13) (by decide) (by decide) (by decide)]
  omega

/-! #### Tight limbs pass the clean-up unchanged (rules R127, R157) -/

theorem natCarry_of_lt {f : Fin 16 → Nat} {i : Fin 16} (h : f (i - 1) < 2 ^ 28) : natCarry f i = f := by
  rw [natCarry, Nat.div_eq_of_lt h, Nat.mod_eq_of_lt h, Nat.add_zero, Function.update_eq_self,
    Function.update_eq_self]

theorem natClean_of_lt {f : Fin 16 → Nat} (h : ∀ j, f j < 2 ^ 28) : natClean f = f := by
  have hfold : natFoldHalf f = f := by
    rw [natFoldHalf, Nat.div_eq_of_lt (h 15), Nat.add_zero, Function.update_eq_self]
  have hcarry : ∀ k, chainCarry f k = 0 := fun k =>
    Nat.le_zero.1 (chainCarry_le (C := 0) (fun j => by have := h j; omega) k)
  funext j
  have hmod : f j % 2 ^ 28 = f j := Nat.mod_eq_of_lt (h j)
  simp only [natClean, hfold, chainAt, hcarry, hmod, Nat.add_zero, ite_self]

theorem eq_of_nats_eq {x y : FE} (h : nats x = nats y) : x = y :=
  Vec16.ext_lane fun i => BitVec.eq_of_toNat_eq (congrFun h i)

theorem mulFn_one {x : FE} (h : Tight x) : mulFn x (smallOperand 1#16) = x := by
  have hlt : ∀ j, nats x j < 2 ^ 28 := fun j => Nat.lt_succ_of_le (h j)
  have hslots : slots (nats x) (nats (smallOperand 1#16)) 16 = nats x := by
    funext m
    rw [slots_smallOperand]
    exact Nat.one_mul _
  apply eq_of_nats_eq
  rw [nats_mulFn h.wr.le_mulBound (smallOperand_WR 1#16).le_mulBound, hslots,
    natCarry_of_lt (hlt _), natClean_of_lt hlt]

/-- Settles O23: the product of `mul_fn`, whose second operand is one 16-bit limb. -/
theorem mulwIsSmallMultiplication : Obligations.MulwIsSmallMultiplication := by
  intro rd rs1 w s
  refine ⟨_, finishWrite_answers rd (mulFn (s.readFr rs1) (smallOperand w)) s,
    .of_finishWrite rd _ s, ?_⟩
  rw [readFr_emptyPend, readFr_mapStatus, readFr_writeFr_self]
  refine ⟨fun h => ⟨?_, mulFn_WR h (smallOperand_WR w), mulFn_smallOperand_last_le h w⟩, ?_⟩
  · exact (ZMod.natCast_eq_natCast_iff' _ _ _).1 (elt_mulFn_smallOperand h w)
  · rintro rfl ht
    exact mulFn_one ht

/-! ### Negation (rule R102) -/

/-- Settles O33: `0 - x` is `-x`, and FE.LDC has left the source as it was. -/
theorem negPseudoNegates : Obligations.NegPseudoNegates := by
  intro rd rs1 rt s hwf hx
  have hne : rs1 ≠ rt := by simpa [Pseudo.wf, ne_comm] using hwf
  obtain ⟨t, ht, hw, hzero⟩ := execLdc_next rt .zero s
  have hkeep : t.readFr rs1 = s.readFr rs1 := hw.otherRegs rs1 hne
  refine ⟨.ldc rt .zero, .sub rd rt rs1, t, _, rfl, ht, finishWrite_answers rd _ t, ?_⟩
  rw [readFr_emptyPend, readFr_mapStatus, readFr_writeFr_self, hzero, hkeep]
  have hsub : elt (reduceFn (subLimbs (rom .zero) (s.readFr rs1))) + elt (s.readFr rs1) = 0 := by
    rw [elt_sub (rom_WR .zero) hx, sub_add_cancel, elt, rom, val_zeroLimbs, Nat.cast_zero]
  rw [elt, elt, ← Nat.cast_add, ZMod.natCast_eq_zero_iff] at hsub
  exact Nat.mod_eq_zero_of_dvd hsub

end Sys2Proof.Machine

/-! ## Completion, FE.COPY, FE.REDUCE and FE.CANON (spec/40_representation.md) -/

namespace Sys2Proof.Machine

/-! ### Completion and copying (rules R120, R125) -/

/-- Settles O10: every command answers a next state, and what it answers is a completion. -/
theorem everyCommandCompletes : Obligations.EveryCommandCompletes := by
  intro i s
  obtain ⟨t, ht⟩ := exec_answers i s
  exact ⟨t, ht, (exec_next ht).1⟩

/-- The rule of a command whose meaning is `finishWrite`. -/
theorem finishWrite_writesOnly (rd : Reg) (x : FE) (s : State) :
    ∃ t, finishWrite rd x s = .next t ∧ WritesOnly rd s t ∧ t.readFr rd = x :=
  ⟨_, finishWrite_answers rd x s, .of_finishWrite rd x s, by simp⟩

/-- Settles O11: FE.COPY writes what it read, so with one register nothing moves. -/
theorem copyMovesAllLimbs : Obligations.CopyMovesAllLimbs := by
  intro rd rs1 s
  obtain ⟨t, ht, hw, hr⟩ := finishWrite_writesOnly rd (s.readFr rs1) s
  refine ⟨t, ht, hw, hr, ?_⟩
  rintro rfl r
  by_cases h : r = rd
  · rw [h, hr]
  · exact hw.otherRegs r h

/-! ### Weak reduction (rules R122, R127) -/

theorem residue_reduceFn {x : FE} (h : ∀ k, nats x k < 2 ^ 31) : residue (reduceFn x) = residue x :=
  elt_eq_iff.1 (elt_reduceFn h)

theorem nats_reduceFn_last {x : FE} (h : ∀ k, nats x k < 2 ^ 31) :
    nats (reduceFn x) 15 = nats x 15 % 2 ^ 28 + chainCarry (natFoldHalf (nats x)) 15 := by
  rw [nats_reduceFn h, natClean_last]

/-- Settles O14: no carry of the chain exceeds 16. -/
theorem weakReductionIsCongruent : Obligations.WeakReductionIsCongruent := by
  intro x h
  refine ⟨residue_reduceFn h, (reduceFn_WR_of_lt h).1, ?_⟩
  have hlast := nats_reduceFn_last h
  have hcarry := reduce_carry_le (f := nats x) h 15
  rw [← nats_apply]
  omega

theorem WR.nats_lt {x : FE} (h : WR x) (k : Fin 16) : nats x k < 2 ^ 31 :=
  Nat.lt_of_le_of_lt (h.nats_le k) (by decide)

/-- On a WR input no carry of the chain exceeds 1, so neither does the one into the masked limb 15
(rule R122). -/
theorem reduceFn_last_le {x : FE} (h : WR x) : nats (reduceFn x) 15 ≤ 2 ^ 28 := by
  have hlast := nats_reduceFn_last h.nats_lt
  have hcarry : chainCarry (natFoldHalf (nats x)) 15 ≤ 1 := chainCarry_le (fun j => by
    have := natFoldHalf_le (nats x) j
    have := h.nats_le j
    have := h.nats_le 15
    omega) 15
  omega

theorem Tight.nats_lt {x : FE} (h : Tight x) (k : Fin 16) : nats x k < 2 ^ 28 :=
  Nat.lt_succ_of_le (h k)

/-- Tight limbs have no carry (rule R127). -/
theorem reduceFn_of_tight {x : FE} (h : Tight x) : reduceFn x = x := by
  apply eq_of_nats_eq
  rw [nats_reduceFn h.wr.nats_lt, natClean_of_lt h.nats_lt]

/-- Settles O13: FE.REDUCE writes `reduce_fn` of its source. -/
theorem reduceKeepsTheValue : Obligations.ReduceKeepsTheValue := by
  intro rd rs1 s
  obtain ⟨t, ht, hw, hr⟩ := finishWrite_writesOnly rd (reduceFn (s.readFr rs1)) s
  refine ⟨t, ht, hw, ?_⟩
  rw [hr]
  exact ⟨fun h => ⟨residue_reduceFn h.nats_lt, reduceFn_WR h, reduceFn_last_le h⟩, reduceFn_of_tight⟩

/-! ### Canonical form (rules R124, R128) -/

/-- Settles O15: FE.CANON writes `canon_fn` of its source. -/
theorem canonGivesTheRepresentative : Obligations.CanonGivesTheRepresentative := by
  intro rd rs1 s
  obtain ⟨t, ht, hw, hr⟩ := finishWrite_writesOnly rd (canonFn (s.readFr rs1)) s
  refine ⟨t, ht, hw, ?_⟩
  rw [hr]
  exact canonFn_spec

/-- `weigh` of numbers below 2^28 is Mathlib's reading of base-2^28 digits, which is a bijection. -/
theorem finFunctionFinEquiv_eq_weigh {f : Fin 16 → Nat} (h : ∀ i, f i < 2 ^ 28) :
    (finFunctionFinEquiv fun i => (⟨f i, h i⟩ : Fin (2 ^ 28))).val = weigh f := by
  rw [finFunctionFinEquiv_apply, weigh]
  simp only [pow_mul]

/-- Digits below the base are determined by their weighted sum. -/
theorem weigh_inj {f g : Fin 16 → Nat} (hf : ∀ i, f i < 2 ^ 28) (hg : ∀ i, g i < 2 ^ 28)
    (h : weigh f = weigh g) : f = g := by
  rw [← finFunctionFinEquiv_eq_weigh hf, ← finFunctionFinEquiv_eq_weigh hg] at h
  have hfun := finFunctionFinEquiv.injective (Fin.ext h)
  exact funext fun i => congrArg Fin.val (congrFun hfun i)

/-- Tight limbs are determined by their value (rule R124, item 2). -/
theorem Tight.eq_of_val_eq {x y : FE} (hx : Tight x) (hy : Tight y) (h : val x = val y) : x = y := by
  rw [val_eq_weigh, val_eq_weigh] at h
  exact eq_of_nats_eq (weigh_inj hx.nats_lt hy.nats_lt h)

theorem canonFn_eq_iff {x y : FE} (hx : WR x) (hy : WR y) :
    canonFn x = canonFn y ↔ residue x = residue y := by
  obtain ⟨⟨htx, -⟩, hvx⟩ := canonFn_spec hx
  obtain ⟨⟨hty, -⟩, hvy⟩ := canonFn_spec hy
  rw [← hvx, ← hvy]
  exact ⟨congrArg val, htx.eq_of_val_eq hty⟩

/-- Settles O16: `canon_fn` keeps the field element, which determines the canonical limbs. -/
theorem canonIsIdempotentAndUnique : Obligations.CanonIsIdempotentAndUnique :=
  ⟨fun _ h => (canonFn_eq_iff (canonFn_WR h) h).2 (elt_eq_iff.1 (elt_canonFn h)),
    fun _ _ hx hy => (canonFn_eq_iff hx hy).symm⟩

end Sys2Proof.Machine

/-! ## FE.ADD, FE.SUB, FE.MUL, FE.SQR and FE.CSWAP (spec/41_arithmetic.md) -/

namespace Sys2Proof.Machine

/-- A field element that is the number `n` has the residue of `n`. -/
theorem residue_of_elt_eq {x : FE} {n : Nat} (h : elt x = (n : ZMod Config.P)) :
    residue x = n % Config.P :=
  (ZMod.natCast_eq_natCast_iff' _ _ _).1 h

/-- Limbs below about `C + 1` times 2^28 leave every carry of `reduce_fn` at most `C`, so its limb 15,
which is masked before it takes its carry, exceeds 2^28 - 1 by at most `C` (rule R122, item 2). -/
theorem reduceFn_last_lt {x : FE} {C : Nat} (hC : C < 8) (h : ∀ k, nats x k + 2 * C < 2 ^ 28 * (C + 1)) :
    nats (reduceFn x) 15 < 2 ^ 28 + C := by
  have hlast := nats_reduceFn_last (x := x) fun k => by have := h k; omega
  have hcarry : chainCarry (natFoldHalf (nats x)) 15 ≤ C := chainCarry_le (fun j => by
    have := natFoldHalf_le (nats x) j
    have := h j
    have := h 15
    omega) 15
  omega

/-! ### Sums (rule R150) -/

theorem addLimbs_comm (a b : FE) : addLimbs a b = addLimbs b a :=
  Vec16.ext_lane fun i => by simp only [addLimbs, Vec16.lane_build, BitVec.add_comm]

/-- The limbs of a sum are below 3 · 2^28, which carries at most 2 (rule R150). -/
theorem reduceFn_addLimbs_last_le {a b : FE} (ha : WR a) (hb : WR b) :
    nats (reduceFn (addLimbs a b)) 15 ≤ 2 ^ 28 + 1 :=
  Nat.le_of_lt_succ (reduceFn_last_lt (C := 2) (by decide) fun k => by
    have := ha.nats_le k
    have := hb.nats_le k
    rw [nats_addLimbs ha hb]
    omega)

/-- Settles O17: FE.ADD writes the weakly reduced limb-wise sum, which is commutative. -/
theorem addIsFieldAddition : Obligations.AddIsFieldAddition := by
  intro rd rs1 rs2 s
  obtain ⟨t, ht, hw, hr⟩ :=
    finishWrite_writesOnly rd (reduceFn (addLimbs (s.readFr rs1) (s.readFr rs2))) s
  have hswap : exec (.add rd rs2 rs1) s = exec (.add rd rs1 rs2) s := by
    rw [exec, exec, execAdd, execAdd, addLimbs_comm]
  refine ⟨t, ht, hw, hswap.trans ht, fun h1 h2 => ?_⟩
  rw [hr]
  refine ⟨residue_of_elt_eq ?_, reduceFn_WR_of_lt (addLimbs_lt h1 h2), reduceFn_addLimbs_last_le h1 h2⟩
  rw [elt_add h1 h2, Nat.cast_add, elt, elt]

/-! ### Differences (rule R151) -/

/-- The limbs of a difference, twice PRIME added, are below 4 · 2^28, which carries at most 3
(rule R151). -/
theorem reduceFn_subLimbs_last_le {a b : FE} (ha : WR a) (hb : WR b) :
    nats (reduceFn (subLimbs a b)) 15 ≤ 2 ^ 28 + 2 :=
  Nat.le_of_lt_succ (reduceFn_last_lt (C := 3) (by decide) fun k => by
    have := ha.nats_le k
    have := (nats_primeLimbs_bounds k).2
    have := nats_subLimbs ha hb k
    omega)

/-- A difference of equals is twice PRIME, whatever the limbs, and reduces to PRIME (rule R151). -/
theorem reduceFn_subLimbs_self (a : FE) : reduceFn (subLimbs a a) = primeLimbs := by
  have h : subLimbs a a = subLimbs zeroLimbs zeroLimbs :=
    Vec16.ext_lane fun i => by simp only [subLimbs, Vec16.lane_build, BitVec.sub_self]
  rw [h]
  decide

/-- A difference with the subtrahend added again is the minuend (rule R151). -/
theorem residue_subLimbs_add {a b : FE} (ha : WR a) (hb : WR b) :
    (residue (reduceFn (subLimbs a b)) + val b) % Config.P = residue a := by
  rw [residue, Nat.mod_add_mod]
  refine (residue_of_elt_eq ?_).symm
  rw [Nat.cast_add, ← elt, ← elt, elt_sub ha hb, sub_add_cancel]

/-- Settles O18: FE.SUB writes the weakly reduced limb-wise difference. -/
theorem subIsFieldSubtraction : Obligations.SubIsFieldSubtraction := by
  intro rd rs1 rs2 s
  obtain ⟨t, ht, hw, hr⟩ :=
    finishWrite_writesOnly rd (reduceFn (subLimbs (s.readFr rs1) (s.readFr rs2))) s
  refine ⟨t, ht, hw, ?_⟩
  rw [hr]
  refine ⟨fun h1 h2 => ⟨residue_subLimbs_add h1 h2, reduceFn_WR_of_lt (subLimbs_lt h1 h2),
    reduceFn_subLimbs_last_le h1 h2⟩, fun heq => ?_⟩
  rw [heq, reduceFn_subLimbs_self]
  exact Vec16.lane_build _

/-! ### Products (rules R152 to R155) -/

/-- `mul_fn` multiplies mod P with limbs up to its bound (rule R153, items 1 and 2). -/
theorem residue_mulFn {a b : FE} (ha : ∀ k, nats a k ≤ mulBound) (hb : ∀ k, nats b k ≤ mulBound) :
    residue (mulFn a b) = (val a * val b) % Config.P := by
  refine residue_of_elt_eq ?_
  rw [elt_mulFn ha hb, Nat.cast_mul, elt, elt]

/-- The double loop multiplies mod P with limbs up to its bound (rule R153, items 1 and 2). -/
theorem weigh_mulRows_mod {a b : FE} (ha : ∀ k, nats a k ≤ mulBound) (hb : ∀ k, nats b k ≤ mulBound) :
    weigh (nats (mulRows a b)) % Config.P = (val a * val b) % Config.P := by
  refine (ZMod.natCast_eq_natCast_iff' _ _ _).1 ?_
  rw [nats_mulRows ha hb, natCast_weigh_slots, ← val_eq_weigh, ← val_eq_weigh, Nat.cast_mul]

/-- Settles O20: up to the bound neither the double loop nor the clean-up wraps. -/
theorem mulCoreIsExactBelowItsBound : Obligations.MulCoreIsExactBelowItsBound :=
  fun _ _ ha hb => ⟨weigh_mulRows_mod ha hb, residue_mulFn ha hb⟩

/-- Settles O19: FE.MUL writes `mul_fn` of its sources. -/
theorem mulIsFieldMultiplication : Obligations.MulIsFieldMultiplication := by
  intro rd rs1 rs2 s
  obtain ⟨t, ht, hw, hr⟩ := finishWrite_writesOnly rd (mulFn (s.readFr rs1) (s.readFr rs2)) s
  refine ⟨t, ht, hw, fun h1 h2 => ?_⟩
  rw [hr]
  exact ⟨residue_mulFn h1.le_mulBound h2.le_mulBound, mulFn_WR h1 h2, mulFn_last_le h1 h2⟩

/-- Settles O21: FE.SQR writes what FE.MUL writes with both sources equal. -/
theorem sqrIsMulBySelf : Obligations.SqrIsMulBySelf := by
  intro rd rs1 s
  obtain ⟨t, ht, hw, hmul⟩ := mulIsFieldMultiplication rd rs1 rs1 s
  refine ⟨t, ht, hw, ht, fun h => ?_⟩
  obtain ⟨hres, hwr, -⟩ := hmul h h
  exact ⟨by rw [hres, pow_two], hwr⟩

/-! ### The conditional swap (rule R156) -/

/-- FE.CSWAP writes each register with the other's limbs for S = 1, with its own for S = 0. -/
theorem execCswap_eq (ra rb : Reg) (swap : Bool) (s : State) :
    exec (.cswap ra rb swap) s =
      finish ((s.writeFr ra (if swap then s.readFr rb else s.readFr ra)).writeFr rb
        (if swap then s.readFr ra else s.readFr rb)) := by
  simp only [exec, execCswap, xorLimbs_swapDiff]

/-- A completion that writes two registers; one register named twice is written with one value. -/
theorem finish_writeFr_writeFr {ra rb : Reg} {x y : FE} (hxy : ra = rb → x = y) (s : State) :
    ∃ t, finish ((s.writeFr ra x).writeFr rb y) = .next t ∧ Completes s t ∧
      (∀ r, r ≠ ra → r ≠ rb → t.readFr r = s.readFr r) ∧ t.status.noncanon = s.status.noncanon ∧
      (∀ a, t.iobuf.read a = s.iobuf.read a) ∧ t.readFr ra = x ∧ t.readFr rb = y := by
  refine ⟨_, rfl, .of_finish rfl rfl rfl rfl rfl rfl rfl rfl rfl, fun r ha hb => ?_, rfl,
    fun _ => rfl, ?_, ?_⟩ <;> rw [readFr_emptyPend, readFr_mapStatus]
  · rw [readFr_writeFr, if_neg hb, readFr_writeFr, if_neg ha]
  · rw [readFr_writeFr, readFr_writeFr_self]
    exact ite_eq_right_iff.2 fun e => (hxy e).symm
  · exact readFr_writeFr_self _ _ _

/-- Settles O22: each register is written with the limbs of one of the two, and where they are one
register both writes agree. -/
theorem cswapExchangesOrKeeps : Obligations.CswapExchangesOrKeeps := by
  intro ra rb swap s
  obtain ⟨t, ht, hc, hother, hn, hbytes, ha, hb⟩ := finish_writeFr_writeFr (ra := ra) (rb := rb)
    (x := if swap then s.readFr rb else s.readFr ra) (y := if swap then s.readFr ra else s.readFr rb)
    (by rintro rfl; rfl) s
  refine ⟨t, (execCswap_eq ra rb swap s).trans ht, hc, hother, hn, hbytes, ?_, ?_⟩
  · rintro rfl; exact ⟨ha, hb⟩
  · rintro rfl; exact ⟨ha, hb⟩

end Sys2Proof.Machine

/-! ## The inversion engine's powers, FE.ISQRT and FE.INV (spec/42_inversion.md) -/

namespace Sys2Proof.Machine

/-! ### The exponent of the chain (rules R201, R202 item 1, R204) -/

theorem chain_exponent : (Config.P - 3) / 4 = 2 ^ 446 - 2 ^ 222 - 1 := by decide +kernel

/-- P is 3 mod 4, so no remainder is lost in the exponent. -/
theorem four_mul_chain_exponent : 4 * ((Config.P - 3) / 4) + 3 = Config.P := by decide +kernel

theorem chain_exponent_pos : 0 < (Config.P - 3) / 4 := by decide +kernel

/-- The chain over exponents, where a multiplication is a sum. -/
theorem isqrtChain_add_one : isqrtChain (fun a b : Nat => a + b) 0 0 1 = (Config.P - 3) / 4 := by
  decide +kernel

/-- Powers of one element multiply as their exponents add. -/
theorem pow_carriesMul {M : Type} [Monoid M] (x : M) :
    CarriesMul (fun n : Nat => x ^ n) (fun _ => True) (fun a b => a + b) (· * ·) :=
  fun a b _ _ => ⟨trivial, pow_add x a b⟩

/-- The chain over a monoid is the power whose exponent is the chain over exponents. -/
theorem isqrtChain_mul {M : Type} [Monoid M] (a0 b0 x : M) :
    isqrtChain (· * ·) a0 b0 x = x ^ ((Config.P - 3) / 4) := by
  obtain ⟨-, h⟩ := isqrtChain_map (pow_carriesMul x) (a0 := 0) (b0 := 0) (x := 1) ⟨⟩ ⟨⟩ ⟨⟩
  rw [isqrtChain_add_one] at h
  rw [h, pow_one]
  exact isqrtChain_start ..

/-- The inversion doubles the exponent before the chain and after it, and adds one (rule R204). -/
theorem invChain_mul {M : Type} [Monoid M] (a0 b0 x : M) :
    invChain (· * ·) a0 b0 x = x ^ (Config.P - 2) := by
  have hexp : 2 * ((Config.P - 3) / 4 * 2) + 1 = Config.P - 2 := by
    have := four_mul_chain_exponent
    omega
  rw [invChain, isqrtChain_mul, ← pow_two, ← pow_two, ← pow_mul, ← pow_mul, ← pow_succ', hexp]

/-- Settles O24: the chain run over exponents gives the power. -/
theorem chainComputesItsExponent : Obligations.ChainComputesItsExponent :=
  ⟨chain_exponent, fun _ _ a0 b0 x => ⟨isqrtChain_mul a0 b0 x, invChain_mul a0 b0 x⟩⟩

/-! ### The powers of a field element (rules R202 to R205) -/

theorem elt_isqrtFn {x : FE} (h : WR x) : elt (isqrtFn x) = elt x ^ ((Config.P - 3) / 4) := by
  rw [(isqrtFn_spec h).2, isqrtChain_mul]

theorem elt_invFn {x : FE} (h : WR x) : elt (invFn x) = elt x ^ (Config.P - 2) := by
  rw [(invFn_spec h).2, invChain_mul]

theorem residue_isqrtFn {x : FE} (h : WR x) :
    residue (isqrtFn x) = val x ^ ((Config.P - 3) / 4) % Config.P :=
  residue_of_elt_eq (by rw [elt_isqrtFn h, Nat.cast_pow, elt])

theorem residue_invFn {x : FE} (h : WR x) :
    residue (invFn x) = val x ^ (Config.P - 2) % Config.P :=
  residue_of_elt_eq (by rw [elt_invFn h, Nat.cast_pow, elt])

/-- `r² · x` is the Legendre power of `x` (rule R202, item 4). -/
theorem isqrtFn_sq_mul {x : FE} (h : WR x) :
    (val (isqrtFn x) ^ 2 * val x) % Config.P = val x ^ ((Config.P - 1) / 2) % Config.P := by
  have hexp : (Config.P - 3) / 4 * 2 + 1 = (Config.P - 1) / 2 := by
    have := four_mul_chain_exponent
    omega
  refine (ZMod.natCast_eq_natCast_iff' _ _ _).1 ?_
  rw [Nat.cast_mul, Nat.cast_pow, Nat.cast_pow, ← elt, ← elt, elt_isqrtFn h, ← pow_mul, ← pow_succ, hexp]

/-- Settles O25: FE.ISQRT writes `isqrt_fn` of its source. -/
theorem isqrtIsTheFixedPower : Obligations.IsqrtIsTheFixedPower := by
  intro rd rs1 s
  obtain ⟨t, ht, hw, hr⟩ := finishWrite_writesOnly rd (isqrtFn (s.readFr rs1)) s
  refine ⟨t, ht, hw, fun h => ?_⟩
  rw [hr]
  exact ⟨residue_isqrtFn h, isqrtFn_sq_mul h, (isqrtFn_spec h).1⟩

/-- Settles O26: FE.INV writes `inv_fn` of its source. -/
theorem invIsTheFermatPower : Obligations.InvIsTheFermatPower := by
  intro rd rs1 s
  obtain ⟨t, ht, hw, hr⟩ := finishWrite_writesOnly rd (invFn (s.readFr rs1)) s
  refine ⟨t, ht, hw, fun h => ?_⟩
  rw [hr]
  exact ⟨residue_invFn h, (invFn_spec h).1⟩

/-! ### The inverse of zero (rule R206) -/

/-- PRIME's limbs and ZERO's are WR limbs that denote zero. -/
theorem wr_and_residue_zero {x : FE} (h : (WR x ∧ residue x = 0) ∨ x = zeroLimbs ∨ x = primeLimbs) :
    WR x ∧ residue x = 0 := by
  obtain h | rfl | rfl := h
  · exact h
  · exact ⟨rom_WR .zero, by rw [residue, val_zeroLimbs, Nat.zero_mod]⟩
  · exact ⟨rom_WR .prime, by rw [residue, val_primeLimbs, Nat.mod_self]⟩

theorem pow_mod_eq_zero {a m n : Nat} (h : a % m = 0) (hn : n ≠ 0) : a ^ n % m = 0 :=
  Nat.mod_eq_zero_of_dvd (dvd_pow (Nat.dvd_of_mod_eq_zero h) hn)

/-- Settles O27: what FE.INV and FE.ISQRT write is a positive power of zero, and the completion keeps
ERR. -/
theorem inverseOfZeroIsZero : Obligations.InverseOfZeroIsZero := by
  intro rd rs1 s hx i hi
  obtain ⟨hwr, hres⟩ := wr_and_residue_zero hx
  have hpos := chain_exponent_pos
  have hP := four_mul_chain_exponent
  obtain rfl | rfl := hi
  · obtain ⟨t, ht, hw, hpow⟩ := invIsTheFermatPower rd rs1 s
    obtain ⟨hval, -⟩ := hpow hwr
    exact ⟨t, ht, hval.trans (pow_mod_eq_zero hres (by omega)), hw.done, hw.err⟩
  · obtain ⟨t, ht, hw, hpow⟩ := isqrtIsTheFixedPower rd rs1 s
    obtain ⟨hval, -⟩ := hpow hwr
    exact ⟨t, ht, hval.trans (pow_mod_eq_zero hres (by omega)), hw.done, hw.err⟩

end Sys2Proof.Machine

/-! ## FE.FROMBYTES and FE.TOBYTES (spec/43_codec.md) -/

namespace Sys2Proof.Machine

/-! ### Limbs and bytes as digits (rules R11, R230)

An integer's limbs are its digits in base 2^28 and its bytes those in base 2^8; Mathlib's
`finFunctionFinEquiv` is the bijection between digits and integers in any base. -/

/-- An integer is the weighted sum of its digits in base 2^w. -/
theorem sum_digits {w n e N : Nat} (he : w * n = e) (h : N < 2 ^ e) :
    ∑ i : Fin n, N / 2 ^ (w * i.val) % 2 ^ w * 2 ^ (w * i.val) = N := by
  have hN : N < (2 ^ w) ^ n := by rwa [← pow_mul, he]
  have hs := congrArg Fin.val
    (finFunctionFinEquiv.apply_symm_apply (⟨N, hN⟩ : Fin ((2 ^ w) ^ n)))
  simpa only [finFunctionFinEquiv_apply, finFunctionFinEquiv_symm_apply_val, ← pow_mul] using hs

theorem nats_fe (n : Nat) (k : Fin 16) : nats (fe n) k = n / 2 ^ (28 * k.val) % 2 ^ 28 := by
  have hmask : Config.lmask.toNat = 2 ^ 28 - 1 := rfl
  rw [nats_apply, fe, Vec16.lane_build, BitVec.toNat_and, BitVec.toNat_ofNat, hmask,
    Nat.and_two_pow_sub_one_eq_mod, Nat.shiftRight_eq_div_pow, Nat.mod_mod_of_dvd _ (by decide)]

theorem fe_tight (n : Nat) : Tight (fe n) := fun k => by
  rw [← nats_apply, nats_fe]
  exact Nat.le_of_lt_succ (Nat.mod_lt _ (by decide))

theorem val_fe {n : Nat} (h : n < 2 ^ 448) : val (fe n) = n := by
  rw [val_eq_weigh, weigh]
  simp only [nats_fe]
  exact sum_digits (e := 448) (n := 16) rfl h

/-- Tight limbs are those of their own value. -/
theorem Tight.fe_val {x : FE} (h : Tight x) : fe (val x) = x :=
  (fe_tight _).eq_of_val_eq h (val_fe (val_lt_of_tight h.nats_lt))

/-- The byte vector's integer, read off the bijection. -/
theorem bytesVal_eq_finFunctionFinEquiv (b : Bytes) :
    bytesVal b = (finFunctionFinEquiv fun i : Fin 56 => b[i].toFin).val := by
  rw [bytesVal_eq_sum, finFunctionFinEquiv_apply]
  simp only [pow_mul, BitVec.val_toFin]

theorem bytesVal_lt (b : Bytes) : bytesVal b < 2 ^ 448 := by
  have hpow : (2 : Nat) ^ 448 = (2 ^ 8) ^ 56 := by rw [← pow_mul]
  rw [bytesVal_eq_finFunctionFinEquiv, hpow]
  exact Fin.isLt _

theorem toNat_bytesOf (n : Nat) (i : Fin 56) :
    ((bytesOf n)[i]).toNat = n / 2 ^ (8 * i.val) % 2 ^ 8 := by
  have hmask : 0xFF = 2 ^ 8 - 1 := rfl
  simp only [bytesOf, Fin.getElem_fin, Vector.getElem_ofFn, BitVec.toNat_ofNat]
  rw [hmask, Nat.and_two_pow_sub_one_eq_mod, Nat.mod_mod, Nat.shiftRight_eq_div_pow]

theorem bytesVal_bytesOf {n : Nat} (h : n < 2 ^ 448) : bytesVal (bytesOf n) = n := by
  rw [bytesVal_eq_sum]
  simp only [toNat_bytesOf]
  exact sum_digits (e := 448) (n := 56) rfl h

/-- Bytes are those of their own integer. -/
theorem bytesOf_bytesVal (b : Bytes) : bytesOf (bytesVal b) = b := by
  refine Vector.ext fun i hi => BitVec.eq_of_toNat_eq ?_
  have hs := congrArg Fin.val
    (congrFun (finFunctionFinEquiv.symm_apply_apply fun j : Fin 56 => b[j].toFin) ⟨i, hi⟩)
  rw [finFunctionFinEquiv_symm_apply_val, ← bytesVal_eq_finFunctionFinEquiv, ← pow_mul] at hs
  exact (toNat_bytesOf (bytesVal b) ⟨i, hi⟩).trans hs

/-! ### The codec's functions (rules R231 to R233) -/

theorem val_unpackFn (b : Bytes) : val (unpackFn b) = bytesVal b := val_fe (bytesVal_lt b)

theorem noncanonFn_eq_true_iff (b : Bytes) : noncanonFn b = true ↔ Config.P ≤ bytesVal b :=
  decide_eq_true_iff

/-- A canonical representative fits in 56 bytes. -/
theorem residue_lt (x : FE) : residue x < Config.P ∧ residue x < 2 ^ 448 := by
  have hlt : residue x < Config.P := Nat.mod_lt _ P_bounds.1
  have hP := P_add
  exact ⟨hlt, by omega⟩

theorem packFn_eq {x : FE} (h : WR x) : packFn x = bytesOf (residue x) := by
  rw [packFn, (canonFn_spec h).2]

theorem bytesVal_packFn {x : FE} (h : WR x) : bytesVal (packFn x) = residue x := by
  rw [packFn_eq h, bytesVal_bytesOf (residue_lt x).2]

/-- Packing what was unpacked reduces the integer once (rule R236, item 1). -/
theorem packFn_unpackFn (b : Bytes) : packFn (unpackFn b) = bytesOf (bytesVal b % Config.P) := by
  rw [packFn_eq (unpackFn_WR b), residue, val_unpackFn]

/-- Unpacking what was packed gives the canonical limbs (rule R236, item 2). -/
theorem unpackFn_packFn {x : FE} (h : WR x) : unpackFn (packFn x) = canonFn x := by
  obtain ⟨⟨htight, -⟩, hval⟩ := canonFn_spec h
  rw [unpackFn, bytesVal_packFn h, ← hval, htight.fe_val]

theorem noncanonFn_packFn {x : FE} (h : WR x) : noncanonFn (packFn x) = false := by
  rw [Bool.eq_false_iff, Ne, noncanonFn_eq_true_iff, bytesVal_packFn h]
  exact Nat.not_le.2 (residue_lt x).1

/-! ### IOBUF written whole (rules R27, R235) -/

/-- Nothing outside the 56 bytes is written. -/
theorem read_writeBytes_outside (m : Memory) (b : Bytes) {a : Nat} (ha : 56 ≤ a) (h : m.wf = true) :
    (writeBytes m b).read a = m.read a := by
  have hstep : ∀ (m' : Memory) (i : Fin 56), m'.wf = true ∧ m'.read a = m.read a →
      (m'.write i.val b[i]).wf = true ∧ (m'.write i.val b[i]).read a = m.read a := by
    rintro m' i ⟨hwf, hread⟩
    have hne : a ≠ i.val := by omega
    rw [Memory.read_write_of_wf _ _ _ _ hwf, if_neg hne]
    exact ⟨Memory.wf_write _ _ _ i.isLt hwf, hread⟩
  exact (foldl_keeps (fun m' : Memory => m'.wf = true ∧ m'.read a = m.read a) _ hstep
    (List.finRange 56) m ⟨h, rfl⟩).2

/-- Memories in canonical form that read alike are equal. -/
theorem Memory.ext_of_wf {m n : Memory} (hm : m.wf = true) (hn : n.wf = true)
    (h : ∀ a, m.read a = n.read a) : m = n :=
  Memory.ext_of_wfFrom m n 0 hm hn h

theorem writeBytes_readBytes (m : Memory) (h : m.wf = true) : writeBytes m (readBytes m) = m := by
  refine Memory.ext_of_wf (wf_writeBytes m _ h) h fun a => ?_
  by_cases ha : a < 56
  · rw [read_writeBytes m _ ⟨a, ha⟩ h]
    simp [readBytes]
  · exact read_writeBytes_outside m _ (Nat.le_of_not_lt ha) h

/-! ### The two commands (rules R234, R235) -/

/-- The rule of a completion that writes one register and NONCANON. -/
theorem finish_writeFr_noncanon (rd : Reg) (x : FE) (b : Bool) (s : State) :
    ∃ t, finish ((s.writeFr rd x).mapStatus (statusNoncanon b)) = .next t ∧ Completes s t ∧
      t.readFr rd = x ∧ (∀ r, r ≠ rd → t.readFr r = s.readFr r) ∧ t.status.noncanon = b ∧
      t.iobuf = s.iobuf := by
  refine ⟨_, rfl, .of_finish rfl rfl rfl rfl rfl rfl rfl rfl rfl, ?_, fun r hr => ?_, rfl, rfl⟩
  · simp
  · simp [readFr_writeFr, hr]

/-- The rule of a completion that writes IOBUF. -/
theorem finish_setIobuf (m : Memory) (s : State) :
    ∃ t, finish (s.setIobuf m) = .next t ∧ Completes s t ∧ (∀ r, t.readFr r = s.readFr r) ∧
      t.status.noncanon = s.status.noncanon ∧ t.iobuf = m :=
  ⟨_, rfl, .of_finish rfl rfl rfl rfl rfl rfl rfl rfl rfl, fun _ => rfl, rfl, rfl⟩

/-- What FE.FROMBYTES does to the registers, to NONCANON and to IOBUF. -/
theorem exec_frombytes (rd : Reg) (s : State) : ∃ t, exec (.frombytes rd) s = .next t ∧
    Completes s t ∧ t.readFr rd = unpackFn (readBytes s.iobuf) ∧
    (∀ r, r ≠ rd → t.readFr r = s.readFr r) ∧
    t.status.noncanon = noncanonFn (readBytes s.iobuf) ∧ t.iobuf = s.iobuf :=
  finish_writeFr_noncanon rd (unpackFn (readBytes s.iobuf)) (noncanonFn (readBytes s.iobuf)) s

/-- What FE.TOBYTES does to them. -/
theorem exec_tobytes (rs1 : Reg) (s : State) : ∃ t, exec (.tobytes rs1) s = .next t ∧
    Completes s t ∧ (∀ r, t.readFr r = s.readFr r) ∧ t.status.noncanon = s.status.noncanon ∧
    t.iobuf = writeBytes s.iobuf (packFn (s.readFr rs1)) :=
  finish_setIobuf (writeBytes s.iobuf (packFn (s.readFr rs1))) s

/-- Settles O28: the register takes `unpack_fn` of the bytes and NONCANON `noncanon_fn`. -/
theorem frombytesLoadsTheInteger : Obligations.FrombytesLoadsTheInteger := by
  intro rd s
  obtain ⟨t, ht, hc, hrd, hother, hflag, hiobuf⟩ := exec_frombytes rd s
  refine ⟨t, ht, hc, fun k => ?_, ?_, ?_, hother, fun a => by rw [hiobuf]⟩
  · rw [hrd, ← nats_apply, unpackFn, nats_fe]
  · rw [hrd, val_unpackFn]
  · rw [hflag, noncanonFn_eq_true_iff]

/-- Settles O29: IOBUF takes the 56 bytes of `pack_fn`. -/
theorem tobytesStoresTheCanonicalEncoding : Obligations.TobytesStoresTheCanonicalEncoding := by
  intro rs1 s hwf
  obtain ⟨t, ht, hc, hregs, hflag, hiobuf⟩ := exec_tobytes rs1 s
  refine ⟨t, ht, hc, ?_, fun hx => ?_, hregs, hflag, fun a ha => ?_⟩
  · rw [hiobuf, wf_writeBytes _ _ hwf]
  · rw [hiobuf, readBytes_writeBytes _ _ hwf, bytesVal_packFn hx]
  · rw [hiobuf, read_writeBytes_outside _ _ ha hwf]

/-- Settles O30: the integer comes back modulo P, and it is less than 2P. -/
theorem bytesSurviveTheRoundTrip : Obligations.BytesSurviveTheRoundTrip := by
  intro r s hwf
  obtain ⟨t, ht, -, hr, -, -, htbuf⟩ := exec_frombytes r s
  obtain ⟨u, hu, -, -, -, hubuf⟩ := exec_tobytes r t
  rw [hr, htbuf, packFn_unpackFn] at hubuf
  refine ⟨t, u, ht, hu, fun hlt => ?_, fun hge => ?_⟩
  · rw [hubuf, Nat.mod_eq_of_lt hlt, bytesOf_bytesVal, writeBytes_readBytes _ hwf]
  · have hN := bytesVal_lt (readBytes s.iobuf)
    obtain ⟨-, h2P, -⟩ := P_bounds
    rw [hubuf, readBytes_writeBytes _ _ hwf, Nat.mod_eq_sub_mod hge, Nat.mod_eq_of_lt (by omega),
      bytesVal_bytesOf (by omega)]

/-- Settles O31: the bytes stored are those of the canonical limbs. -/
theorem elementsSurviveTheRoundTrip : Obligations.ElementsSurviveTheRoundTrip := by
  intro rs rd s hwf hx
  obtain ⟨t, ht, -, -, -, htbuf⟩ := exec_tobytes rs s
  obtain ⟨u, hu, -, hrd, -, hflag, -⟩ := exec_frombytes rd t
  rw [htbuf, readBytes_writeBytes _ _ hwf] at hrd hflag
  exact ⟨t, u, ht, hu, hrd.trans (unpackFn_packFn hx), hflag.trans (noncanonFn_packFn hx)⟩

end Sys2Proof.Machine

/-! ## Command errors, the bus error and the interrupt line (spec/60_exceptions.md) -/

namespace Sys2Proof.Machine

/-! ### Illegal operands (rule R264) -/

/-- The check of a word that passes rules R262 and R263. -/
theorem check_of_assigned_unreserved {v : Word} (hop : check v ≠ .illegalOpcode)
    (hres : check v ≠ .reservedField) :
    check v = if IllegalOperand v then .illegalOperand else .none := by
  obtain ⟨f, hf⟩ := Option.ne_none_iff_exists'.1 (mt check_of_unassigned hop)
  have hmask : ¬v &&& resMask f ≠ 0#32 := mt (check_of_reserved hf) hres
  rw [check_of_format hf, if_neg hmask]

/-- Settles O7: past rules R262 and R263 the check tests the two operands and nothing else. -/
theorem illegalOperandsExactly : Obligations.IllegalOperandsExactly := by
  intro v s hb hop hres illegal t
  have hcheck := check_of_assigned_unreserved hop hres
  by_cases hi : IllegalOperand v
  · rw [if_pos hi] at hcheck
    have ht : t = raiseCmdError .illegalOperand (sampleCommand v s) := by
      rw [← hcheck]
      exact writeCmd_rejected hb (by rw [hcheck]; decide)
    rw [ht]
    refine ⟨rfl, iff_of_true hi hcheck, fun _ => ⟨rfl, fun herr => ?_, rfl, hb⟩, absurd hi⟩
    simp [statusError, statusSampled, herr]
  · rw [if_neg hi] at hcheck
    have ht : t = acceptCommand v (sampleCommand v s) := writeCmd_accepted hb hcheck
    rw [ht]
    exact ⟨rfl, iff_of_false hi (by rw [hcheck]; decide), fun h => absurd h hi,
      fun _ => ⟨rfl, rfl, rfl, rfl⟩⟩

/-! ### Rejected words and dropped writes (rules R260, R265) -/

theorem writeIobuf_busy (j : Fin 14) (v : Word) {s : State} (hb : s.status.busy = true) :
    writeIobuf j v s = raiseCmdError .busyWrite s := by
  rw [writeIobuf, if_pos hb]

/-- Settles O37: both record an error, a rejected word after it is sampled. -/
theorem rejectionRecordsAndChangesNothingElse :
    Obligations.RejectionRecordsAndChangesNothingElse := by
  intro v s
  refine ⟨fun hb hv => ?_, fun hb t ht => ?_⟩
  · rw [writeCmd_rejected hb hv]
    refine ⟨rfl, rfl, rfl, fun _ => rfl, rfl, rfl, fun w hw => ?_⟩
    rw [writeCmd_accepted (s := raiseCmdError (check v) (sampleCommand v s)) hb hw]
    exact ⟨rfl, rfl⟩
  · obtain rfl : t = raiseCmdError .busyWrite s := by
      obtain rfl | ⟨j, rfl⟩ := ht
      · exact writeCmd_busy v hb
      · exact writeIobuf_busy j v hb
    exact ⟨rfl, rfl, rfl, fun _ => rfl, rfl, rfl⟩

/-- The port's side of a dropped write: the error is recorded and the answer is OKAY. -/
theorem hostAccess_memWrite_busy {off : Nat} (v : Word) {s : State} (hb : s.status.busy = true)
    (hoff : off = 0x00 ∨ (0x40 ≤ off ∧ off ≤ 0x74 ∧ off % 4 = 0)) :
    hostAccess (memWrite off v) s = .next (answer .okay (raiseCmdError .busyWrite s)) := by
  obtain rfl | ⟨hlo, hhi, halign⟩ := hoff
  · rw [← writeCmd_busy v hb]
    exact hostAccess_memWrite (r := .cmd) v (by decide) rfl s
  · obtain ⟨j, rfl⟩ : ∃ j : Fin 14, off = 0x40 + 4 * j.val :=
      ⟨⟨(off - 0x40) / 4, by omega⟩, by dsimp only; omega⟩
    rw [← writeIobuf_busy j v hb]
    exact hostAccess_memWrite v (iobuf_offset_lt j) (windowReg_iobuf j) s

/-- A host write of STATUS (rule R29). -/
theorem hostAccess_writeStatus (v : Word) (s : State) :
    hostAccess (memWrite 0x04 v) s = .next (answer .okay (s.mapStatus (statusW1C v))) :=
  hostAccess_memWrite (r := .status) v (by decide) rfl s

/-- A host write of CTRL (rule R31). -/
theorem hostAccess_writeCtrl (v : Word) (s : State) :
    hostAccess (memWrite 0x08 v) s = .next (answer .okay (writeCtrl v s)) :=
  hostAccess_memWrite (r := .ctrl) v (by decide) rfl s

theorem writeCtrl_enables {v : Word} (hv : v[31] = false) (s : State) :
    writeCtrl v s = { s with ctrl := ctrlWritten v } := by
  simp [writeCtrl, hv]

theorem writeCtrl_reset {v : Word} (hv : v[31] = true) (s : State) :
    writeCtrl v s = applyReset s := by
  rw [writeCtrl, if_pos hv]

/-- Settles O38: CMD and IOBUF take no write while busy, STATUS and CTRL take every write. -/
theorem writesWhileBusyAreDropped : Obligations.WritesWhileBusyAreDropped := by
  intro off v s hb
  refine ⟨fun hoff => ⟨_, hostAccess_memWrite_busy v hb hoff, ?_⟩,
    ⟨_, hostAccess_writeStatus v s, rfl, rfl⟩,
    ⟨_, hostAccess_writeCtrl v s, fun hv => ?_, fun hv => ?_⟩⟩
  · exact ⟨rfl, rfl, rfl, rfl, rfl, rfl, fun _ => rfl, rfl, hb,
      fun w i hp hd => unitStep_of_pend hp hd⟩
  · rw [writeCtrl_enables hv]
    exact ⟨rfl, rfl, rfl⟩
  · rw [writeCtrl_reset hv]
    exact .of_fixed rfl

/-! ### The first error is kept (rule R268) -/

/-- ERR is 1 in `t`, with the code that `s` holds. -/
def ErrorHeld (s t : State) : Prop := t.status.err = true ∧ t.status.errcode = s.status.errcode

/-- No error is recorded. -/
def ErrorClear (t : State) : Prop := t.status.err = false ∧ t.status.errcode = .none

theorem ErrorHeld.of_status {s t : State} (herr : s.status.err = true) (h : t.status = s.status) :
    ErrorHeld s t :=
  ⟨by rw [h, herr], by rw [h]⟩

/-- A further error leaves the first code. -/
theorem ErrorHeld.raiseCmdError {s u : State} (h : ErrorHeld s u) (code : ErrCode) :
    ErrorHeld s (raiseCmdError code u) := by
  obtain ⟨herr, hcode⟩ := h
  exact ⟨rfl, (if_pos herr).trans hcode⟩

theorem ErrorClear.of_fixed {t : State} (h : applyReset t = t) : ErrorClear t := by
  rw [← h]
  exact ⟨rfl, rfl⟩

/-- A write of STATUS with bit 2 set clears ERR and ERRCODE, any other leaves them (rule R29). -/
theorem errorClear_statusW1C {v : Word} (hv : v[2] = true) (s : State) :
    ErrorClear (s.mapStatus (statusW1C v)) := by
  simp [ErrorClear, statusW1C, hv]

theorem errorHeld_statusW1C {v : Word} (hv : v[2] = false) {s : State} (herr : s.status.err = true) :
    ErrorHeld s (s.mapStatus (statusW1C v)) := by
  simp [ErrorHeld, statusW1C, hv, herr]

theorem errorHeld_writeCmd (v : Word) {s : State} (herr : s.status.err = true) :
    ErrorHeld s (writeCmd v s) := by
  have hsampled : ErrorHeld s (sampleCommand v s) := ⟨herr, rfl⟩
  obtain ⟨-, h⟩ | ⟨-, -, h⟩ | ⟨-, -, h⟩ := writeCmd_cases v s <;> rw [h]
  · exact (ErrorHeld.of_status herr rfl).raiseCmdError _
  · exact ⟨herr, rfl⟩
  · exact hsampled.raiseCmdError _

theorem errorHeld_writeIobuf (j : Fin 14) (v : Word) {s : State} (herr : s.status.err = true) :
    ErrorHeld s (writeIobuf j v s) := by
  rw [writeIobuf]
  split
  · exact (ErrorHeld.of_status herr rfl).raiseCmdError _
  · exact .of_status herr rfl

/-- A host write keeps the error, or it is the write of STATUS that clears it, or the soft reset. -/
theorem hostWrite_error (r : WindowReg) (v : Word) {s : State} (herr : s.status.err = true) :
    ErrorHeld s (hostWrite r v s) ∨
    (r = .status ∧ v[2] = true ∧ ErrorClear (hostWrite r v s)) ∨
    applyReset (hostWrite r v s) = hostWrite r v s := by
  cases r with
  | cmd => left; exact errorHeld_writeCmd v herr
  | status =>
    cases hv : v[2] with
    | true => right; left; exact ⟨rfl, rfl, errorClear_statusW1C hv s⟩
    | false => left; exact errorHeld_statusW1C hv herr
  | ctrl =>
    rw [hostWrite]
    cases hv : v[31] with
    | true => right; right; rw [writeCtrl_reset hv]; rfl
    | false => left; rw [writeCtrl_enables hv]; exact .of_status herr rfl
  | id => left; exact .of_status herr rfl
  | iobuf j => left; exact errorHeld_writeIobuf j v herr

/-- A move keeps the error, or it is the write of STATUS that clears it, or it leaves a reset state. -/
theorem doMove_error {m : Move} {s t : State} (herr : s.status.err = true)
    (h : doMove m s = .next t) :
    ErrorHeld s t ∨
    (ErrorClear t ∧ ∃ a v, m = .host a ∧ accessReg a = some .status ∧ a.kind = .write v ∧
      v[2] = true) ∨
    applyReset t = t := by
  obtain ⟨a, ha, -, hacc⟩ | ⟨a, -, -, rfl⟩ | ⟨-, -, hs⟩ | ⟨-, -, rfl⟩ | ⟨-, rfl⟩ | ⟨-, rfl⟩ :=
    doMove_next h
  · obtain ⟨r, hr, ⟨-, rfl⟩ | ⟨v, hk, rfl⟩⟩ := hostAccess_next hacc
    · left; exact .of_status herr (hostRead_sameUnit r s).status
    · obtain hheld | ⟨rfl, hv, hclear⟩ | hreset := hostWrite_error r v herr
      · left; exact hheld
      · right; left; exact ⟨hclear, a, v, ha, hr, hk, hv⟩
      · right; right; exact hreset
  · left; exact .of_status herr rfl
  · obtain ⟨-, rfl⟩ | ⟨v, i, -, -, he⟩ := unitStep_next hs
    · left; exact .of_status herr rfl
    · obtain ⟨hc, -⟩ := exec_next he
      left; exact ⟨hc.err.trans herr, hc.errcode⟩
  · left; exact .of_status herr rfl
  · right; right; rfl
  · left; exact .of_status herr rfl

/-- A step that is no clearing write and leaves no reset state keeps the error. -/
theorem step_error {s t : State} (herr : s.status.err = true) (h : step s = .next t) :
    ErrorHeld s t ∨
    (ErrorClear t ∧ ∃ a rest v, s.agenda = .host a :: rest ∧ accessReg a = some .status ∧
      a.kind = .write v ∧ v[2] = true) ∨
    applyReset t = t := by
  obtain ⟨-, hm⟩ | ⟨m, rest, ha, hm⟩ := step_next h
  · obtain hheld | ⟨-, a, v, hm, -⟩ | hreset := doMove_error herr hm
    · left; exact hheld
    · cases hm
    · right; right; exact hreset
  · obtain hheld | ⟨hclear, a, v, rfl, hr, hk, hv⟩ | hreset :=
      doMove_error (s := s.setAgenda rest) herr hm
    · left; exact hheld
    · right; left; exact ⟨hclear, a, rest, v, ha, hr, hk, hv⟩
    · right; right; exact hreset

/-- Settles O49: what a step does to the error, and the three that clear it. -/
theorem firstErrorIsSticky : Obligations.FirstErrorIsSticky := by
  refine ⟨fun s t herr h => ?_, fun v s hv => ?_, fun v s hv => ?_, fun s => ⟨_, rfl, rfl, rfl⟩⟩
  · obtain hheld | ⟨⟨hclear, hcode⟩, hwrite⟩ | hreset := step_error herr h
    · left; exact hheld
    · right; exact ⟨hclear, hcode, .inl hwrite⟩
    · obtain ⟨hclear, hcode⟩ := ErrorClear.of_fixed hreset
      right; exact ⟨hclear, hcode, .inr (.of_fixed hreset)⟩
  · exact ⟨_, hostAccess_writeStatus v s, errorClear_statusW1C hv s⟩
  · refine ⟨_, hostAccess_writeCtrl v s, ?_⟩
    rw [writeCtrl_reset hv]
    exact ⟨rfl, rfl⟩

/-! ### What stops the machine (rules R270, R272) -/

/-- A word that passes the check is a command (rule R103). -/
theorem decode_of_check {v : Word} (h : check v = .none) : ∃ i, decode v = .ok i := by
  cases hd : decode v with
  | ok i => exact ⟨i, rfl⟩
  | error c =>
    obtain ⟨hcheck, hc⟩ := agrees_of_decode hd
    exact absurd (hcheck.symm.trans h) hc

/-- The unit's step answers: the command in flight passed the check (rule R74). -/
theorem State.Inv.unitStep_answers {s : State} (h : s.Inv) : ∃ t, unitStep s = .next t := by
  cases hp : s.pend with
  | none => exact ⟨s, by rw [unitStep, hp]⟩
  | some v =>
    obtain ⟨hcheck, -⟩ := h.pendChecked v hp
    obtain ⟨i, hi⟩ := decode_of_check hcheck
    rw [unitStep_of_pend hp hi]
    exact exec_answers i s

/-- Every move answers but a host access that reaches no register. -/
theorem State.Inv.doMove_answers {s : State} (h : s.Inv) (m : Move) :
    (∃ t, Machine.doMove m s = .next t) ∨
    (Machine.doMove m s = .fault .busError ∧ ∃ a, m = .host a ∧ accessReg a = none) := by
  cases m with
  | host a =>
    rw [Machine.doMove]
    split
    · cases hr : accessReg a with
      | none => right; exact ⟨(hostAccess_fault_iff a s).2 hr, a, rfl, hr⟩
      | some r => left; exact hostAccess_answers hr s
    · left; exact ⟨_, rfl⟩
  | complete =>
    left
    rw [Machine.doMove]
    split
    · exact h.unitStep_answers
    · exact ⟨s, rfl⟩
  | rstLow => left; exact ⟨_, rfl⟩
  | rstHigh => left; exact ⟨_, rfl⟩

theorem State.Inv.step_answers {s : State} (h : s.Inv) :
    (∃ t, step s = .next t) ∨
    (step s = .fault .busError ∧ ∃ a rest, s.agenda = .host a :: rest ∧ accessReg a = none) := by
  cases ha : s.agenda with
  | nil =>
    rw [step_of_agenda_nil ha]
    obtain hnext | ⟨-, a, hm, -⟩ := h.doMove_answers .complete
    · left; exact hnext
    · cases hm
  | cons m rest =>
    rw [step_of_agenda_cons ha]
    obtain hnext | ⟨hfault, a, rfl, hr⟩ := (h.setAgenda rest).doMove_answers m
    · left; exact hnext
    · right; exact ⟨hfault, a, rest, rfl, hr⟩

/-- Settles O46: a step answers a next state or is the bus's ERROR response. -/
theorem onlyBusErrorsStop : Obligations.OnlyBusErrorsStop := by
  intro s hs
  obtain ⟨t, ht⟩ | ⟨hfault, hbus⟩ := hs.step_answers
  · rw [ht]
    exact ⟨nofun, nofun⟩
  · rw [hfault]
    exact ⟨nofun, fun f hf => ⟨(Host.Outcome.fault.inj hf).symm, hbus⟩⟩

/-! ### The interrupt line (rules R273, R274) -/

theorem Completes.irq_eq {s t : State} (h : Completes s t) :
    irq t = (s.ctrl.ieDone || (s.status.err && s.ctrl.ieErr)) := by
  rw [irq, h.done, h.err, h.ctrl, Bool.true_and]

theorem irq_of_sources_clear {t : State} (hdone : t.status.done = false)
    (herr : t.status.err = false) : irq t = false := by
  rw [irq, hdone, herr, Bool.false_and, Bool.false_and, Bool.or_false]

theorem irq_of_disabled {t : State} (hdone : t.ctrl.ieDone = false) (herr : t.ctrl.ieErr = false) :
    irq t = false := by
  rw [irq, hdone, herr, Bool.and_false, Bool.and_false, Bool.or_false]

/-- Rule R260: a rejection clears DONE and sets ERR, so the line is the error enable. -/
theorem irq_of_rejected (v : Word) (s : State) (code : ErrCode) :
    irq (raiseCmdError code (sampleCommand v s)) = s.ctrl.ieErr := by
  simp [irq, statusError, statusSampled]

/-- Settles O50: DONE, ERR and the enables after each of the four. -/
theorem irqFollowsDoneAndErr : Obligations.IrqFollowsDoneAndErr := by
  refine ⟨fun i s t h => ?_, fun v s t hb hv h => ?_, fun s t h => ?_, fun s t h => ?_⟩
  · obtain ⟨hc, -⟩ := exec_next h
    exact hc.irq_eq
  · rw [hostAccess_memWrite (r := .cmd) v (by decide) rfl, hostWrite, writeCmd_rejected hb hv] at h
    obtain rfl := Host.Outcome.next.inj h
    exact irq_of_rejected v s (check v)
  · rw [hostAccess_writeStatus] at h
    obtain rfl := Host.Outcome.next.inj h
    obtain ⟨hdone, herr⟩ := statusW1C_bits 0x00000006#32 s.status
    exact irq_of_sources_clear (hdone.trans rfl) (herr.trans rfl)
  · rw [hostAccess_writeCtrl, writeCtrl_enables rfl] at h
    obtain rfl := Host.Outcome.next.inj h
    exact irq_of_disabled rfl rfl

end Sys2Proof.Machine

/-! ## Reset, and how a run ends (spec/70_reset_and_hazards.md) -/

namespace Sys2Proof.Machine

/-! ### The resets (rules R300 to R303) -/

/-- A state that a reset would not change drives the interrupt line low. -/
theorem irq_of_fixed {t : State} (h : applyReset t = t) : irq t = false := by
  rw [← h]
  rfl

/-- Settles O42: either reset ends in a state that a reset would not change. -/
theorem resetClearsEverything : Obligations.ResetClearsEverything := by
  refine ⟨fun v s hv => ⟨_, hostAccess_writeCtrl v s, ?_⟩,
    fun s => ⟨_, rfl, .of_fixed rfl, irq_of_fixed rfl, rfl⟩⟩
  rw [writeCtrl_reset hv]
  exact ⟨.of_fixed rfl, irq_of_fixed rfl, rfl, rfl, rfl⟩

/-- Settles O43: each of the four moves leaves the unit as the reset made it. -/
theorem nothingMovesInReset : Obligations.NothingMovesInReset := by
  intro s m rest hs hr ha
  rw [step_of_agenda_cons ha]
  have hheld : applyReset (s.setAgenda rest) = s.setAgenda rest :=
    (hs.setAgenda rest).heldInReset hr
  cases m with
  | host a =>
    exact ⟨unanswered (s.setAgenda rest), if_neg (ne_true_of_eq_false hr),
      .of_fixed (congrArg unanswered hheld), fun _ => hr, nofun, fun _ _ => rfl⟩
  | complete =>
    exact ⟨s.setAgenda rest, if_neg (ne_true_of_eq_false hr), .of_fixed hheld, fun _ => hr,
      nofun, nofun⟩
  | rstLow => exact ⟨_, rfl, .of_fixed rfl, fun _ => rfl, nofun, nofun⟩
  | rstHigh =>
    exact ⟨_, rfl, .of_fixed (congrArg releaseReset hheld), fun h => absurd rfl h, fun _ => rfl,
      nofun⟩

/-! ### What an orderly move can do -/

/-- An orderly access reaches a register and is no soft reset. -/
theorem orderly_host {a : Access} (h : (Move.host a).orderly = true) :
    accessReg a ≠ none ∧ ∀ v, accessReg a = some .ctrl → a.kind = .write v → v[31] = false := by
  refine ⟨fun hr => ?_, fun v hr hk => ?_⟩
  · simp [Move.orderly, hr] at h
  · simpa [Move.orderly, hr, hk] using h

theorem writeCmd_agenda (v : Word) (s : State) : (writeCmd v s).agenda = s.agenda := by
  obtain ⟨-, h⟩ | ⟨-, -, h⟩ | ⟨-, -, h⟩ := writeCmd_cases v s <;> rw [h] <;> rfl

theorem hostWrite_agenda (r : WindowReg) (v : Word) (s : State) :
    (hostWrite r v s).agenda = s.agenda := by
  cases r with
  | cmd => exact writeCmd_agenda v s
  | status => rfl
  | ctrl =>
    rw [hostWrite, answer_agenda, writeCtrl]
    split <;> rfl
  | id => rfl
  | iobuf j =>
    rw [hostWrite, answer_agenda, writeIobuf]
    split <;> rfl

/-- No move changes what is to come after it. -/
theorem doMove_agenda {m : Move} {s t : State} (h : doMove m s = .next t) : t.agenda = s.agenda := by
  obtain ⟨a, -, -, ha⟩ | ⟨a, -, -, rfl⟩ | ⟨-, -, hs⟩ | ⟨-, -, rfl⟩ | ⟨-, rfl⟩ | ⟨-, rfl⟩ :=
    doMove_next h
  · obtain ⟨r, -, ⟨-, rfl⟩ | ⟨v, -, rfl⟩⟩ := hostAccess_next ha
    · obtain ⟨-, -, -, -, -, -, -, hagenda, -⟩ := hostRead_frame r s
      exact hagenda
    · exact hostWrite_agenda r v s
  · rfl
  · obtain ⟨-, rfl⟩ | ⟨v, i, -, -, he⟩ := unitStep_next hs
    · rfl
    · exact (exec_next he).1.agenda
  all_goals rfl

/-- Only the falling edge takes the pin low. -/
theorem doMove_running {m : Move} {s t : State} (hm : m ≠ .rstLow) (hr : s.rstN = true)
    (h : doMove m s = .next t) : t.rstN = true := by
  obtain ⟨a, -, -, ha⟩ | ⟨a, -, -, rfl⟩ | ⟨-, -, hs⟩ | ⟨-, -, rfl⟩ | ⟨hlow, -⟩ | ⟨-, rfl⟩ :=
    doMove_next h
  · exact (hostAccess_rstN ha).trans hr
  · exact hr
  · exact (unitStep_rstN hs).trans hr
  · exact hr
  · exact absurd hlow hm
  · rfl

/-- While a command is in flight no host write but the soft reset touches PEND: a write of CMD is
dropped (rule R265). -/
theorem hostWrite_pend_busy {r : WindowReg} {v : Word} {s : State} (hb : s.status.busy = true)
    (hv : r = .ctrl → v[31] = false) : (hostWrite r v s).pend = s.pend := by
  cases r with
  | cmd => rw [hostWrite, answer_pend, writeCmd_busy v hb, raiseCmdError_pend]
  | status => rfl
  | ctrl => rw [hostWrite, answer_pend, writeCtrl_enables (hv rfl)]
  | id => rfl
  | iobuf j => rw [hostWrite, answer_pend, writeIobuf_busy j v hb, raiseCmdError_pend]

/-- Of the orderly moves only the unit's own takes a command out of flight. -/
theorem doMove_orderly_pend {m : Move} {s t : State} (hm : m.orderly = true) (hne : m ≠ .complete)
    (hb : s.status.busy = true) (h : doMove m s = .next t) : t.pend = s.pend := by
  obtain ⟨a, rfl, -, ha⟩ | ⟨a, -, -, rfl⟩ | ⟨hc, -⟩ | ⟨hc, -⟩ | ⟨rfl, -⟩ | ⟨-, rfl⟩ := doMove_next h
  · obtain ⟨r, hr, ⟨-, rfl⟩ | ⟨v, hk, rfl⟩⟩ := hostAccess_next ha
    · exact (hostRead_sameUnit r s).pend
    · obtain ⟨-, hreset⟩ := orderly_host hm
      exact hostWrite_pend_busy hb fun hctrl => hreset v (hr.trans (congrArg some hctrl)) hk
  · rfl
  · exact absurd hc hne
  · exact absurd hc hne
  · cases hm
  · rfl

/-! ### A run of orderly moves (rules R306, R310, R320) -/

/-- A state of a run that is out of reset and has only orderly moves to come. -/
structure State.Undisturbed (s : State) : Prop where
  inv : s.Inv
  running : s.rstN = true
  orderly : ∀ m ∈ s.agenda, m.orderly = true

/-- The step takes the next move and leaves a state of the same kind, nearer the run's end. -/
theorem State.Undisturbed.step_cons {s : State} {m : Move} {rest : List Move} (h : s.Undisturbed)
    (ha : s.agenda = m :: rest) :
    ∃ t, step s = .next t ∧ t.Undisturbed ∧ t.agenda = rest ∧
      (m ≠ .complete → s.status.busy = true → t.pend = s.pend) := by
  have hall : ∀ n ∈ m :: rest, n.orderly = true := ha ▸ h.orderly
  have hm : m.orderly = true := hall m List.mem_cons_self
  have hinv : (s.setAgenda rest).Inv := h.inv.setAgenda rest
  rw [step_of_agenda_cons ha]
  obtain ⟨t, ht⟩ | ⟨-, a, rfl, hr⟩ := hinv.doMove_answers m
  · have hlow : m ≠ .rstLow := fun hl => by
      rw [hl] at hm
      cases hm
    have hagenda : t.agenda = rest := doMove_agenda ht
    exact ⟨t, ht,
      ⟨hinv.doMove ht, doMove_running (s := s.setAgenda rest) hlow h.running ht,
        fun n hn => hall n (List.mem_cons_of_mem m (hagenda ▸ hn))⟩,
      hagenda, fun hne hb => doMove_orderly_pend (s := s.setAgenda rest) hm hne hb ht⟩
  · exact absurd hr (orderly_host hm).1

/-- The unit's step performs the command in flight. -/
theorem State.Inv.unitStep_completes {s : State} {v : Word} (h : s.Inv) (hp : s.pend = some v) :
    ∃ u, unitStep s = .next u ∧ Completes s u := by
  obtain ⟨u, hu⟩ := h.unitStep_answers
  obtain ⟨hnone, -⟩ | ⟨_, i, -, -, he⟩ := unitStep_next hu
  · rw [hp] at hnone
    cases hnone
  · exact ⟨u, hu, (exec_next he).1⟩

/-- The unit's step leaves nothing in flight, whether or not anything was. -/
theorem State.Inv.unitStep_idle {s : State} (h : s.Inv) :
    ∃ u, unitStep s = .next u ∧ u.pend = none := by
  cases hp : s.pend with
  | none => exact ⟨s, by rw [unitStep, hp], hp⟩
  | some v =>
    obtain ⟨u, hu, hc⟩ := h.unitStep_completes hp
    exact ⟨u, hu, hc.pend⟩

theorem State.Inv.busy_of_pend {s : State} {v : Word} (h : s.Inv) (hp : s.pend = some v) :
    s.status.busy = true := by
  rw [h.busyPend, hp, Option.isSome_some]

theorem State.Inv.idle_of_pend {s : State} (h : s.Inv) (hp : s.pend = none) :
    s.status.busy = false := by
  rw [h.busyPend, hp, Option.isSome_none]

/-- A run of any machine whose first step answers goes on from the state it answers. -/
theorem run_succ {M : Host.Core} {s t : M.State} (h : M.step s = .next t) (k : Nat) :
    M.run (k + 1) s = M.run k t := by
  rw [Host.Core.run, h]

/-- When the unit moves next, its step performs the command in flight. -/
theorem step_completes {s : State} {v : Word} (h : s.Inv) (hr : s.rstN = true)
    (hp : s.pend = some v) (ha : s.agenda = [] ∨ ∃ rest, s.agenda = .complete :: rest) :
    ∃ u, step s = .next u ∧ u.pend = none ∧ u.status.busy = false ∧ u.status.done = true := by
  obtain ⟨ms, hstep⟩ : ∃ ms, step s = doMove .complete (s.setAgenda ms) := by
    obtain ha | ⟨rest, ha⟩ := ha
    · exact ⟨s.agenda, step_of_agenda_nil ha⟩
    · exact ⟨rest, step_of_agenda_cons ha⟩
  obtain ⟨u, hu, hc⟩ := (h.setAgenda ms).unitStep_completes hp
  exact ⟨u, hstep.trans ((doMove_complete (s := s.setAgenda ms) hr).trans hu),
    hc.pend, hc.busy, hc.done⟩

/-- Settles O51, by induction on the moves to come: the command stays in flight until the unit moves,
which it does at the latest when no other move is left. -/
theorem acceptedCommandsComplete : Obligations.AcceptedCommandsComplete := by
  intro s v hs hr hp hm
  have h : s.Undisturbed := ⟨hs, hr, hm⟩
  clear hs hr hm
  induction ha : s.agenda generalizing s with
  | nil =>
    obtain ⟨u, hu⟩ := step_completes h.inv h.running hp (.inl ha)
    exact ⟨0, s, u, Nat.le_refl 0, rfl, hp, hu⟩
  | cons m rest ih =>
    by_cases hc : m = .complete
    · subst hc
      obtain ⟨u, hu⟩ := step_completes h.inv h.running hp (.inr ⟨rest, ha⟩)
      exact ⟨0, s, u, Nat.zero_le _, rfl, hp, hu⟩
    · obtain ⟨s', hstep, h', ha', hpend⟩ := h.step_cons ha
      have hp' : s'.pend = some v := (hpend hc (h.inv.busy_of_pend hp)).trans hp
      obtain ⟨n, t, u, hn, hrun, hend⟩ := ih s' hp' h' ha'
      exact ⟨n + 1, t, u, Nat.succ_le_succ hn, (run_succ (M := core) hstep n).trans hrun, hend⟩

/-- The last step of a run is the unit's, and leaves nothing in flight. -/
theorem State.Undisturbed.last_step {s : State} (h : s.Undisturbed) (ha : s.agenda = []) :
    ∃ t, step s = .next t ∧ t.RunOver ∧ t.status.busy = false := by
  obtain ⟨t, ht, hp⟩ := h.inv.unitStep_idle
  have hmove : doMove .complete s = .next t := (doMove_complete h.running).trans ht
  have hagenda : t.agenda = [] := (doMove_agenda hmove).trans ha
  refine ⟨t, (step_of_agenda_nil ha).trans hmove, ⟨fun m hm => ?_, hp⟩,
    (h.inv.doMove hmove).idle_of_pend hp⟩
  rw [hagenda] at hm
  cases hm

/-- Settles O52, by induction on the moves to come. -/
theorem runsEnd : Obligations.RunsEnd := by
  intro s hs hr hm
  have h : s.Undisturbed := ⟨hs, hr, hm⟩
  clear hs hr hm
  induction ha : s.agenda generalizing s with
  | nil =>
    obtain ⟨t, ht, hover⟩ := h.last_step ha
    exact ⟨t, run_succ (M := core) ht 0, hover⟩
  | cons m rest ih =>
    obtain ⟨s', hstep, h', ha', -⟩ := h.step_cons ha
    obtain ⟨t, hrun, hover⟩ := ih s' h' ha'
    exact ⟨t, (run_succ (M := core) hstep _).trans hrun, hover⟩

end Sys2Proof.Machine
